-- ==== Sys2Proof/Word.lean ====
section
/-!
DEFINITION. The word types of the block (spec/00_scope.md R9). All values are unsigned.
-/

namespace Sys2Proof

/-- A request word (30_encoding.md R61). -/
abbrev Word16 := BitVec 16
/-- One 32-bit slot, the unit of every bus access (`RAW_WIDTH`, 00_scope.md R8; 20_memory.md R43). -/
abbrev Word32 := BitVec 32
/-- The logical value of a wide register (`WIDE_WIDTH`, 00_scope.md R8). -/
abbrev Word64 := BitVec 64

end Sys2Proof
end

