-- ==== Sys2Proof/Config.lean ====
section
/-!
DEFINITION. The implementation parameters of 00_scope.md R8 and the one free value of the model.
`LAPIC_OFFSET_BITS = 12` and `IOAPIC_INDEX_BITS = 8` are the widths of `Addr` (Syntax.lean).
`N_CONTEXTS` is the length of `State.contexts`.
-/

namespace Sys2Proof

/-- `LAPIC_ID_WIDTH` and `IOAPIC_ID_WIDTH`: 4 or 8 (00_scope.md R8). -/
inductive IdWidth
  | four
  | eight
deriving DecidableEq, Repr

/-- The number of bits an `IdWidth` names. -/
def IdWidth.bits : IdWidth → Nat
  | .four => 4
  | .eight => 8

/-- `SPLIT_READ_ORDER` (00_scope.md R8; left open by 43_split_sequencer.md R171). -/
inductive SplitReadOrder
  | lowFirst
  | highFirst
deriving DecidableEq, Repr

/-- `APR_CAPABILITY`: `ReadOnly` or `ReadWrite` (00_scope.md R8, decision D18). -/
inductive AprCapability
  | readOnly
  | readWrite
deriving DecidableEq, Repr

/-- The parameters of 00_scope.md R8. The defaults are those R8 gives; `IOAPIC_REDIR_COUNT` and
`SPLIT_READ_ORDER` are OPEN and have none. -/
structure Params where
  lapicIdWidth : IdWidth := .eight
  ioapicIdWidth : IdWidth := .four
  /-- `IOAPIC_REDIR_COUNT`, 1 to 120 (10_state.md R26). -/
  redirCount : Nat
  splitReadOrder : SplitReadOrder
  aprCapability : AprCapability := .readOnly
deriving DecidableEq, Repr

/-- The parameters of the machine `State.reset` describes: the defaults of R8, and for the OPEN ones
the values spec/95_test_vectors.md uses. DESIGN CHOICE, unsafe: log entry 1. -/
def Params.atReset : Params := { redirCount := 24, splitReadOrder := .lowFirst }

/-- The word the backend returns to the `k`-th bus read that `State.readData` has no word for: a free
value, constrained by nothing (10_state.md R28, decision D27). DESIGN CHOICE, safe: log entry 3. -/
opaque Config.busDraw : Nat → Word32

end Sys2Proof
end

