-- ==== Sys2Proof/Syntax.lean ====
section
/-!
DEFINITION. Registers, bus addresses, value types, requests and the operations (`Instr`) of the block:
one constructor of `Instr` per row of spec/opcode_table.json (30_encoding.md R65). Field defaults are
those of 00_scope.md R12: 0, `false`, or the code-0 variant.
-/

namespace Sys2Proof

/-! ### Register index -/

/-- A register space (20_memory.md R40). -/
inductive Space
  | lapic
  | ioapic
deriving DecidableEq, Repr

/-- One 32-bit slot: a space and an index in it, a 12-bit byte offset or an 8-bit register index
(20_memory.md R40). -/
inductive Addr
  | lapic (offset : BitVec 12)
  | ioapic (index : BitVec 8)
deriving DecidableEq, Repr

/-- The registers of 10_state.md R25 (Local APIC) and R26 (I/O APIC). With an 8-bit index the largest
redirection pair is (0xFE, 0xFF), so `n` is below 120 (R26). -/
inductive Reg
  | lapicId | lapicVer | lapicTpr | lapicApr | lapicPpr | lapicEoi | lapicLdr | lapicDfr | lapicSvr
  | lapicEsr | lapicLvtCmci | lapicIcr | lapicLvtTimer | lapicLvtThermal | lapicLvtPerf
  | lapicLvtLint0 | lapicLvtLint1 | lapicLvtError | lapicTmrInit | lapicTmrCur | lapicDcr
  | ioapicId | ioapicVer | ioapicArb
  | ioapicRedir (n : Fin 120)
deriving DecidableEq, Repr

/-- The direction of an operation (30_encoding.md R61). -/
inductive Dir
  | read
  | write
deriving DecidableEq, Repr

/-- A decoded request `{space, reg, n, dir}` (30_encoding.md R62). The space and `n` are those of the
register. -/
structure Request where
  reg : Reg
  dir : Dir
deriving DecidableEq, Repr

/-! ### Enumerated fields: one variant for every bit pattern (41_bitfield_codec.md R106) -/

/-- 41_bitfield_codec.md R107. -/
inductive LvtDeliveryMode
  | fixed | reserved1 | smi | reserved3 | nmi | init | reserved6 | extInt
deriving DecidableEq, Repr

/-- 41_bitfield_codec.md R108. -/
inductive IcrDeliveryMode
  | fixed | lowestPriority | smi | reserved3 | nmi | init | startUp | reserved7
deriving DecidableEq, Repr

/-- 41_bitfield_codec.md R109. -/
inductive RedirDeliveryMode
  | fixed | lowestPriority | smi | reserved3 | nmi | init | reserved6 | extInt
deriving DecidableEq, Repr

/-- 41_bitfield_codec.md R118. -/
inductive TimerMode
  | oneShot | periodic | tscDeadline | reserved3
deriving DecidableEq, Repr

/-- 41_bitfield_codec.md R120. -/
inductive Shorthand
  | noShorthand | self | allIncludingSelf | allExcludingSelf
deriving DecidableEq, Repr

/-! ### Value types -/

/-- `ApicId_w = {id : Fin 2^w}` (41_bitfield_codec.md R110), held in 8 bits; `ApicId.wf` (WellFormed)
says that it fits the width. -/
structure ApicId where
  id : BitVec 8 := 0
deriving DecidableEq, Repr

/-- 41_bitfield_codec.md R111. -/
structure LapicVersion where
  version : BitVec 8 := 0
  maxLvt : BitVec 8 := 0
  eoiSuppression : Bool := false
deriving DecidableEq, Repr

/-- 41_bitfield_codec.md R112. -/
structure IoapicVersion where
  version : BitVec 8 := 0
  maxRedir : BitVec 8 := 0
deriving DecidableEq, Repr

/-- `ArbId = {arbId : Fin 2^IOAPIC_ID_WIDTH}` (41_bitfield_codec.md R123), held in 8 bits. -/
structure ArbId where
  arbId : BitVec 8 := 0
deriving DecidableEq, Repr

/-- `Priority = {class : Fin 16, subClass : Fin 16}` (44_priority_field.md R190); `cls` is `class`. -/
structure Priority where
  cls : BitVec 4 := 0
  subClass : BitVec 4 := 0
deriving DecidableEq, Repr

/-- 41_bitfield_codec.md R113. -/
structure LogicalDest where
  logicalId : BitVec 8 := 0
deriving DecidableEq, Repr

/-- 41_bitfield_codec.md R114. The code of `cluster` is 0x0 (R115). -/
inductive DestFormat
  | cluster
  | flat
deriving DecidableEq, Repr

/-- 41_bitfield_codec.md R116. -/
structure SpuriousVector where
  vector : BitVec 8 := 0
  apicEnable : Bool := false
  focusCheck : Bool := false
  eoiBroadcastSuppression : Bool := false
deriving DecidableEq, Repr

/-- 41_bitfield_codec.md R117: `e_i` is bit `i`. -/
structure ErrorStatus where
  e0 : Bool := false
  e1 : Bool := false
  e2 : Bool := false
  e3 : Bool := false
  e4 : Bool := false
  e5 : Bool := false
  e6 : Bool := false
  e7 : Bool := false
deriving DecidableEq, Repr

/-- 41_bitfield_codec.md R118. -/
structure LvtTimer where
  vector : BitVec 8 := 0
  deliveryMode : LvtDeliveryMode := .fixed
  deliveryStatus : Bool := false
  polarity : Bool := false
  remoteIrr : Bool := false
  trigger : Bool := false
  mask : Bool := false
  timerMode : TimerMode := .oneShot
deriving DecidableEq, Repr

/-- 41_bitfield_codec.md R119. -/
structure LvtEntry where
  vector : BitVec 8 := 0
  deliveryMode : LvtDeliveryMode := .fixed
  deliveryStatus : Bool := false
  polarity : Bool := false
  remoteIrr : Bool := false
  trigger : Bool := false
  mask : Bool := false
deriving DecidableEq, Repr

/-- 41_bitfield_codec.md R120. -/
structure Icr where
  vector : BitVec 8 := 0
  deliveryMode : IcrDeliveryMode := .fixed
  destMode : Bool := false
  deliveryStatus : Bool := false
  level : Bool := false
  trigger : Bool := false
  shorthand : Shorthand := .noShorthand
  destination : BitVec 8 := 0
deriving DecidableEq, Repr

/-- 41_bitfield_codec.md R121. -/
structure RedirEntry where
  vector : BitVec 8 := 0
  deliveryMode : RedirDeliveryMode := .fixed
  destMode : Bool := false
  deliveryStatus : Bool := false
  polarity : Bool := false
  remoteIrr : Bool := false
  trigger : Bool := false
  mask : Bool := false
  destination : BitVec 8 := 0
deriving DecidableEq, Repr

/-- The value of the DCR: an unsigned 32-bit divisor (42_scattered_divisor.md R150, R153, decision
D23). A write may carry any; the codec accepts the eight of R152. -/
structure Divisor where
  divisor : Word32 := 0
deriving DecidableEq, Repr

/-- A decoded value record, as a read's response carries it (30_encoding.md R66). -/
inductive Value
  | apicId (v : ApicId)
  | lapicVersion (v : LapicVersion)
  | ioapicVersion (v : IoapicVersion)
  | arbId (v : ArbId)
  | priority (v : Priority)
  | word (v : Word32)
  | logicalDest (v : LogicalDest)
  | destFormat (v : DestFormat)
  | spuriousVector (v : SpuriousVector)
  | errorStatus (v : ErrorStatus)
  | lvtTimer (v : LvtTimer)
  | lvtEntry (v : LvtEntry)
  | icr (v : Icr)
  | redirEntry (v : RedirEntry)
  | divisor (v : Divisor)
deriving DecidableEq, Repr

/-- The value half of a request port (30_encoding.md R60): "The value port carries typed records". One
lane per value type; a write operation reads the lane of its own register's type and no other, so a
value of a wrong type cannot be offered. DESIGN CHOICE, safe: log entry 5. -/
structure ValuePort where
  apicId : ApicId := {}
  lapicVersion : LapicVersion := {}
  ioapicVersion : IoapicVersion := {}
  arbId : ArbId := {}
  priority : Priority := {}
  word : Word32 := 0
  logicalDest : LogicalDest := {}
  destFormat : DestFormat := .cluster
  spuriousVector : SpuriousVector := {}
  errorStatus : ErrorStatus := {}
  lvtTimer : LvtTimer := {}
  lvtEntry : LvtEntry := {}
  icr : Icr := {}
  redirEntry : RedirEntry := {}
  divisor : Divisor := {}
deriving DecidableEq, Repr

/-- A request `(w, v)` as its caller offers it (30_encoding.md R60). -/
structure Offer where
  word : Word16
  value : ValuePort := {}
deriving DecidableEq, Repr

/-! ### The operations -/

/-- One constructor per row of spec/opcode_table.json (30_encoding.md R65): a decoded request together
with the value a write carries. -/
inductive Instr
  | rdLapicId | wrLapicId (v : ApicId)
  | rdLapicVer | wrLapicVer (v : LapicVersion)
  | rdLapicTpr | wrLapicTpr (v : Priority)
  | rdLapicApr | wrLapicApr (v : Priority)
  | rdLapicPpr | wrLapicPpr (v : Priority)
  | rdLapicEoi | wrLapicEoi (v : Word32)
  | rdLapicLdr | wrLapicLdr (v : LogicalDest)
  | rdLapicDfr | wrLapicDfr (v : DestFormat)
  | rdLapicSvr | wrLapicSvr (v : SpuriousVector)
  | rdLapicEsr | wrLapicEsr (v : ErrorStatus)
  | rdLapicLvtCmci | wrLapicLvtCmci (v : LvtEntry)
  | rdLapicIcr | wrLapicIcr (v : Icr)
  | rdLapicLvtTimer | wrLapicLvtTimer (v : LvtTimer)
  | rdLapicLvtThermal | wrLapicLvtThermal (v : LvtEntry)
  | rdLapicLvtPerf | wrLapicLvtPerf (v : LvtEntry)
  | rdLapicLvtLint0 | wrLapicLvtLint0 (v : LvtEntry)
  | rdLapicLvtLint1 | wrLapicLvtLint1 (v : LvtEntry)
  | rdLapicLvtError | wrLapicLvtError (v : LvtEntry)
  | rdLapicTmrInit | wrLapicTmrInit (v : Word32)
  | rdLapicTmrCur | wrLapicTmrCur (v : Word32)
  | rdLapicDcr | wrLapicDcr (v : Divisor)
  | rdIoapicId | wrIoapicId (v : ApicId)
  | rdIoapicVer | wrIoapicVer (v : IoapicVersion)
  | rdIoapicArb | wrIoapicArb (v : ArbId)
  | rdIoapicRedir (n : Fin 120) | wrIoapicRedir (n : Fin 120) (v : RedirEntry)
deriving DecidableEq, Repr

end Sys2Proof
end

