-- ==== Sys2Proof/WellFormed.lean ====
section
/-!
DEFINITION. Which parameters, registers and operations the spec admits. A ReadOnly register's write is
well formed: it is a legal word and raises its error at run time (30_encoding.md R65; 45_register_access.md
R205 allows a static refusal, which this model does not make).
-/

namespace Sys2Proof

/-- 00_scope.md R8: `IOAPIC_REDIR_COUNT` is 1 to 120. -/
def Params.wf (p : Params) : Bool := 1 ≤ p.redirCount && p.redirCount ≤ 120

/-- 41_bitfield_codec.md R110: `id : Fin 2^w`. -/
def ApicId.wf (w : IdWidth) (v : ApicId) : Bool := v.id.toNat < 2 ^ w.bits

/-- 41_bitfield_codec.md R123: `arbId : Fin 2^IOAPIC_ID_WIDTH`. -/
def ArbId.wf (w : IdWidth) (v : ArbId) : Bool := v.arbId.toNat < 2 ^ w.bits

/-- 10_state.md R26: `n` ranges over 0 <= n < `IOAPIC_REDIR_COUNT`. -/
def Reg.wf (p : Params) : Reg → Bool
  | .ioapicRedir n => n.val < p.redirCount
  | .lapicId | .lapicVer | .lapicTpr | .lapicApr | .lapicPpr | .lapicEoi | .lapicLdr | .lapicDfr
  | .lapicSvr | .lapicEsr | .lapicLvtCmci | .lapicIcr | .lapicLvtTimer | .lapicLvtThermal
  | .lapicLvtPerf | .lapicLvtLint0 | .lapicLvtLint1 | .lapicLvtError | .lapicTmrInit | .lapicTmrCur
  | .lapicDcr | .ioapicId | .ioapicVer | .ioapicArb => true

/-- The operands the spec admits, instruction by instruction: an APIC ID fits its width (R110, R123), a
redirection entry exists (R26). Every other operand type admits all its values. -/
def Instr.wf (p : Params) : Instr → Bool
  | .wrLapicId v => v.wf p.lapicIdWidth
  | .wrIoapicId v => v.wf p.ioapicIdWidth
  | .wrIoapicArb v => v.wf p.ioapicIdWidth
  | .rdIoapicRedir n => Reg.wf p (.ioapicRedir n)
  | .wrIoapicRedir n _ => Reg.wf p (.ioapicRedir n)
  | .rdLapicId | .rdLapicVer | .wrLapicVer _ | .rdLapicTpr | .wrLapicTpr _ | .rdLapicApr
  | .wrLapicApr _ | .rdLapicPpr | .wrLapicPpr _ | .rdLapicEoi | .wrLapicEoi _ | .rdLapicLdr
  | .wrLapicLdr _ | .rdLapicDfr | .wrLapicDfr _ | .rdLapicSvr | .wrLapicSvr _ | .rdLapicEsr
  | .wrLapicEsr _ | .rdLapicLvtCmci | .wrLapicLvtCmci _ | .rdLapicIcr | .wrLapicIcr _
  | .rdLapicLvtTimer | .wrLapicLvtTimer _ | .rdLapicLvtThermal | .wrLapicLvtThermal _
  | .rdLapicLvtPerf | .wrLapicLvtPerf _ | .rdLapicLvtLint0 | .wrLapicLvtLint0 _ | .rdLapicLvtLint1
  | .wrLapicLvtLint1 _ | .rdLapicLvtError | .wrLapicLvtError _ | .rdLapicTmrInit | .wrLapicTmrInit _
  | .rdLapicTmrCur | .wrLapicTmrCur _ | .rdLapicDcr | .wrLapicDcr _ | .rdIoapicId | .rdIoapicVer
  | .wrIoapicVer _ | .rdIoapicArb => true

end Sys2Proof
end

