-- ==== Sys2Proof/Decode.lean ====
section
/-!
DEFINITION. The register index's slots, the request decoder `DecodeReq` (30_encoding.md R62), total on
every 16-bit word and refusing by name, then the encoder of a request word (R61) and the host's
`decodeTableWord`.
-/

namespace Sys2Proof

/-! ### Slots of the register index -/

/-- The slots of a register: one for a 32-bit register, a low and a high one for a wide register
(45_register_access.md R200; the descriptors of 43_split_sequencer.md R170). -/
structure Slots where
  low : Addr
  high : Option Addr := none
deriving DecidableEq, Repr

/-- The offsets of 10_state.md R25, the indices of R26, the descriptors of 43_split_sequencer.md R170. -/
def Reg.slots : Reg → Slots
  | .lapicId => { low := .lapic 0x020 }
  | .lapicVer => { low := .lapic 0x030 }
  | .lapicTpr => { low := .lapic 0x080 }
  | .lapicApr => { low := .lapic 0x090 }
  | .lapicPpr => { low := .lapic 0x0A0 }
  | .lapicEoi => { low := .lapic 0x0B0 }
  | .lapicLdr => { low := .lapic 0x0D0 }
  | .lapicDfr => { low := .lapic 0x0E0 }
  | .lapicSvr => { low := .lapic 0x0F0 }
  | .lapicEsr => { low := .lapic 0x280 }
  | .lapicLvtCmci => { low := .lapic 0x2F0 }
  | .lapicIcr => { low := .lapic 0x300, high := some (.lapic 0x310) }
  | .lapicLvtTimer => { low := .lapic 0x320 }
  | .lapicLvtThermal => { low := .lapic 0x330 }
  | .lapicLvtPerf => { low := .lapic 0x340 }
  | .lapicLvtLint0 => { low := .lapic 0x350 }
  | .lapicLvtLint1 => { low := .lapic 0x360 }
  | .lapicLvtError => { low := .lapic 0x370 }
  | .lapicTmrInit => { low := .lapic 0x380 }
  | .lapicTmrCur => { low := .lapic 0x390 }
  | .lapicDcr => { low := .lapic 0x3E0 }
  | .ioapicId => { low := .ioapic 0x00 }
  | .ioapicVer => { low := .ioapic 0x01 }
  | .ioapicArb => { low := .ioapic 0x02 }
  | .ioapicRedir n =>
    { low := .ioapic (BitVec.ofNat 8 (0x10 + 2 * n.val)),
      high := some (.ioapic (BitVec.ofNat 8 (0x11 + 2 * n.val))) }

/-- The Local APIC registers, in the order of 10_state.md R25. -/
def lapicRegs : List Reg :=
  [.lapicId, .lapicVer, .lapicTpr, .lapicApr, .lapicPpr, .lapicEoi, .lapicLdr, .lapicDfr, .lapicSvr,
   .lapicEsr, .lapicLvtCmci, .lapicIcr, .lapicLvtTimer, .lapicLvtThermal, .lapicLvtPerf,
   .lapicLvtLint0, .lapicLvtLint1, .lapicLvtError, .lapicTmrInit, .lapicTmrCur, .lapicDcr]

/-! ### The decoder -/

/-- Why a word is `Illegal`: the cases 30_encoding.md R63 lists. The machine answers all of them with
the one fatal error `UnknownRegister` (60_exceptions.md R305). -/
inductive Illegal
  /-- bit 12 is set -/
  | reservedBit
  /-- space `10` or `11` -/
  | reservedSpace
  /-- a Local APIC offset that is no register's low slot, 0x310 among them -/
  | noLapicRegister
  /-- an I/O APIC index with `idx[11:8] != 0` -/
  | indexTooWide
  /-- an I/O APIC index that is no register's low slot: 0x03 to 0x0F and every high slot -/
  | noIoapicRegister
  /-- a redirection index at or beyond `IOAPIC_REDIR_COUNT` -/
  | beyondRedirCount
deriving DecidableEq, Repr

/-- The Local APIC half of `DecodeReq` (30_encoding.md R62, case `00`). -/
def decodeLapicReg (idx : BitVec 12) : Except Illegal Reg :=
  match lapicRegs.find? (fun r => r.slots.low == .lapic idx) with
  | some r => .ok r
  | none => .error .noLapicRegister

/-- The redirection-entry line of `DecodeReq` (30_encoding.md R62): `i >= 0x10`, `i[0] = 0` and
`(i - 0x10) >> 1` below the count. -/
def decodeRedir (count : Nat) (i : BitVec 8) : Except Illegal Reg :=
  if 0x10 ≤ i.toNat ∧ i.getLsbD 0 = false then
    let n := (i.toNat - 0x10) >>> 1
    if h : n < 120 then
      if n < count then .ok (.ioapicRedir ⟨n, h⟩) else .error .beyondRedirCount
    else .error .beyondRedirCount
  else .error .noIoapicRegister

/-- The I/O APIC half of `DecodeReq` (30_encoding.md R62, case `01`). -/
def decodeIoapicReg (p : Params) (idx : BitVec 12) : Except Illegal Reg :=
  if idx.extractLsb' 8 4 ≠ 0 then .error .indexTooWide
  else
    let i := idx.extractLsb' 0 8
    if i = 0x00 then .ok .ioapicId
    else if i = 0x01 then .ok .ioapicVer
    else if i = 0x02 then .ok .ioapicArb
    else decodeRedir p.redirCount i

/-- The register a word of a given space names (30_encoding.md R62). -/
def decodeReg (p : Params) (sp : BitVec 2) (idx : BitVec 12) : Except Illegal Reg :=
  if sp = 0b00 then decodeLapicReg idx
  else if sp = 0b01 then decodeIoapicReg p idx
  else .error .reservedSpace

/-- `DecodeReq` (30_encoding.md R62). -/
def decodeReq (p : Params) (w : Word16) : Except Illegal Request :=
  if w.getLsbD 12 then .error .reservedBit
  else
    match decodeReg p (w.extractLsb' 14 2) (w.extractLsb' 0 12) with
    | .error e => .error e
    | .ok r => .ok { reg := r, dir := if w.getLsbD 13 then .write else .read }

/-- The operation a request selects, its value taken from the lane of the register's value type
(30_encoding.md R60, R65). -/
def Instr.ofRequest (r : Request) (v : ValuePort) : Instr :=
  match r.reg, r.dir with
  | .lapicId, .read => .rdLapicId
  | .lapicId, .write => .wrLapicId v.apicId
  | .lapicVer, .read => .rdLapicVer
  | .lapicVer, .write => .wrLapicVer v.lapicVersion
  | .lapicTpr, .read => .rdLapicTpr
  | .lapicTpr, .write => .wrLapicTpr v.priority
  | .lapicApr, .read => .rdLapicApr
  | .lapicApr, .write => .wrLapicApr v.priority
  | .lapicPpr, .read => .rdLapicPpr
  | .lapicPpr, .write => .wrLapicPpr v.priority
  | .lapicEoi, .read => .rdLapicEoi
  | .lapicEoi, .write => .wrLapicEoi v.word
  | .lapicLdr, .read => .rdLapicLdr
  | .lapicLdr, .write => .wrLapicLdr v.logicalDest
  | .lapicDfr, .read => .rdLapicDfr
  | .lapicDfr, .write => .wrLapicDfr v.destFormat
  | .lapicSvr, .read => .rdLapicSvr
  | .lapicSvr, .write => .wrLapicSvr v.spuriousVector
  | .lapicEsr, .read => .rdLapicEsr
  | .lapicEsr, .write => .wrLapicEsr v.errorStatus
  | .lapicLvtCmci, .read => .rdLapicLvtCmci
  | .lapicLvtCmci, .write => .wrLapicLvtCmci v.lvtEntry
  | .lapicIcr, .read => .rdLapicIcr
  | .lapicIcr, .write => .wrLapicIcr v.icr
  | .lapicLvtTimer, .read => .rdLapicLvtTimer
  | .lapicLvtTimer, .write => .wrLapicLvtTimer v.lvtTimer
  | .lapicLvtThermal, .read => .rdLapicLvtThermal
  | .lapicLvtThermal, .write => .wrLapicLvtThermal v.lvtEntry
  | .lapicLvtPerf, .read => .rdLapicLvtPerf
  | .lapicLvtPerf, .write => .wrLapicLvtPerf v.lvtEntry
  | .lapicLvtLint0, .read => .rdLapicLvtLint0
  | .lapicLvtLint0, .write => .wrLapicLvtLint0 v.lvtEntry
  | .lapicLvtLint1, .read => .rdLapicLvtLint1
  | .lapicLvtLint1, .write => .wrLapicLvtLint1 v.lvtEntry
  | .lapicLvtError, .read => .rdLapicLvtError
  | .lapicLvtError, .write => .wrLapicLvtError v.lvtEntry
  | .lapicTmrInit, .read => .rdLapicTmrInit
  | .lapicTmrInit, .write => .wrLapicTmrInit v.word
  | .lapicTmrCur, .read => .rdLapicTmrCur
  | .lapicTmrCur, .write => .wrLapicTmrCur v.word
  | .lapicDcr, .read => .rdLapicDcr
  | .lapicDcr, .write => .wrLapicDcr v.divisor
  | .ioapicId, .read => .rdIoapicId
  | .ioapicId, .write => .wrIoapicId v.apicId
  | .ioapicVer, .read => .rdIoapicVer
  | .ioapicVer, .write => .wrIoapicVer v.ioapicVersion
  | .ioapicArb, .read => .rdIoapicArb
  | .ioapicArb, .write => .wrIoapicArb v.arbId
  | .ioapicRedir n, .read => .rdIoapicRedir n
  | .ioapicRedir n, .write => .wrIoapicRedir n v.redirEntry

/-- The decoder on an offered request `(w, v)` (30_encoding.md R60, R62). -/
def decode (p : Params) (o : Offer) : Except Illegal Instr :=
  match decodeReq p o.word with
  | .error e => .error e
  | .ok r => .ok (Instr.ofRequest r o.value)

/-! ### The encoder -/

/-- The request of an operation (30_encoding.md R62). -/
def Instr.request : Instr → Request
  | .rdLapicId => ⟨.lapicId, .read⟩
  | .wrLapicId _ => ⟨.lapicId, .write⟩
  | .rdLapicVer => ⟨.lapicVer, .read⟩
  | .wrLapicVer _ => ⟨.lapicVer, .write⟩
  | .rdLapicTpr => ⟨.lapicTpr, .read⟩
  | .wrLapicTpr _ => ⟨.lapicTpr, .write⟩
  | .rdLapicApr => ⟨.lapicApr, .read⟩
  | .wrLapicApr _ => ⟨.lapicApr, .write⟩
  | .rdLapicPpr => ⟨.lapicPpr, .read⟩
  | .wrLapicPpr _ => ⟨.lapicPpr, .write⟩
  | .rdLapicEoi => ⟨.lapicEoi, .read⟩
  | .wrLapicEoi _ => ⟨.lapicEoi, .write⟩
  | .rdLapicLdr => ⟨.lapicLdr, .read⟩
  | .wrLapicLdr _ => ⟨.lapicLdr, .write⟩
  | .rdLapicDfr => ⟨.lapicDfr, .read⟩
  | .wrLapicDfr _ => ⟨.lapicDfr, .write⟩
  | .rdLapicSvr => ⟨.lapicSvr, .read⟩
  | .wrLapicSvr _ => ⟨.lapicSvr, .write⟩
  | .rdLapicEsr => ⟨.lapicEsr, .read⟩
  | .wrLapicEsr _ => ⟨.lapicEsr, .write⟩
  | .rdLapicLvtCmci => ⟨.lapicLvtCmci, .read⟩
  | .wrLapicLvtCmci _ => ⟨.lapicLvtCmci, .write⟩
  | .rdLapicIcr => ⟨.lapicIcr, .read⟩
  | .wrLapicIcr _ => ⟨.lapicIcr, .write⟩
  | .rdLapicLvtTimer => ⟨.lapicLvtTimer, .read⟩
  | .wrLapicLvtTimer _ => ⟨.lapicLvtTimer, .write⟩
  | .rdLapicLvtThermal => ⟨.lapicLvtThermal, .read⟩
  | .wrLapicLvtThermal _ => ⟨.lapicLvtThermal, .write⟩
  | .rdLapicLvtPerf => ⟨.lapicLvtPerf, .read⟩
  | .wrLapicLvtPerf _ => ⟨.lapicLvtPerf, .write⟩
  | .rdLapicLvtLint0 => ⟨.lapicLvtLint0, .read⟩
  | .wrLapicLvtLint0 _ => ⟨.lapicLvtLint0, .write⟩
  | .rdLapicLvtLint1 => ⟨.lapicLvtLint1, .read⟩
  | .wrLapicLvtLint1 _ => ⟨.lapicLvtLint1, .write⟩
  | .rdLapicLvtError => ⟨.lapicLvtError, .read⟩
  | .wrLapicLvtError _ => ⟨.lapicLvtError, .write⟩
  | .rdLapicTmrInit => ⟨.lapicTmrInit, .read⟩
  | .wrLapicTmrInit _ => ⟨.lapicTmrInit, .write⟩
  | .rdLapicTmrCur => ⟨.lapicTmrCur, .read⟩
  | .wrLapicTmrCur _ => ⟨.lapicTmrCur, .write⟩
  | .rdLapicDcr => ⟨.lapicDcr, .read⟩
  | .wrLapicDcr _ => ⟨.lapicDcr, .write⟩
  | .rdIoapicId => ⟨.ioapicId, .read⟩
  | .wrIoapicId _ => ⟨.ioapicId, .write⟩
  | .rdIoapicVer => ⟨.ioapicVer, .read⟩
  | .wrIoapicVer _ => ⟨.ioapicVer, .write⟩
  | .rdIoapicArb => ⟨.ioapicArb, .read⟩
  | .wrIoapicArb _ => ⟨.ioapicArb, .write⟩
  | .rdIoapicRedir n => ⟨.ioapicRedir n, .read⟩
  | .wrIoapicRedir n _ => ⟨.ioapicRedir n, .write⟩

/-- The value a write offers, every other lane at its default (00_scope.md R12). -/
def Instr.value : Instr → ValuePort
  | .wrLapicId v => { apicId := v }
  | .wrLapicVer v => { lapicVersion := v }
  | .wrLapicTpr v => { priority := v }
  | .wrLapicApr v => { priority := v }
  | .wrLapicPpr v => { priority := v }
  | .wrLapicEoi v => { word := v }
  | .wrLapicLdr v => { logicalDest := v }
  | .wrLapicDfr v => { destFormat := v }
  | .wrLapicSvr v => { spuriousVector := v }
  | .wrLapicEsr v => { errorStatus := v }
  | .wrLapicLvtCmci v => { lvtEntry := v }
  | .wrLapicIcr v => { icr := v }
  | .wrLapicLvtTimer v => { lvtTimer := v }
  | .wrLapicLvtThermal v => { lvtEntry := v }
  | .wrLapicLvtPerf v => { lvtEntry := v }
  | .wrLapicLvtLint0 v => { lvtEntry := v }
  | .wrLapicLvtLint1 v => { lvtEntry := v }
  | .wrLapicLvtError v => { lvtEntry := v }
  | .wrLapicTmrInit v => { word := v }
  | .wrLapicTmrCur v => { word := v }
  | .wrLapicDcr v => { divisor := v }
  | .wrIoapicId v => { apicId := v }
  | .wrIoapicVer v => { ioapicVersion := v }
  | .wrIoapicArb v => { arbId := v }
  | .wrIoapicRedir _ v => { redirEntry := v }
  | .rdLapicId | .rdLapicVer | .rdLapicTpr | .rdLapicApr | .rdLapicPpr | .rdLapicEoi | .rdLapicLdr
  | .rdLapicDfr | .rdLapicSvr | .rdLapicEsr | .rdLapicLvtCmci | .rdLapicIcr | .rdLapicLvtTimer |
  .rdLapicLvtThermal | .rdLapicLvtPerf | .rdLapicLvtLint0 | .rdLapicLvtLint1 | .rdLapicLvtError |
  .rdLapicTmrInit | .rdLapicTmrCur | .rdLapicDcr | .rdIoapicId | .rdIoapicVer | .rdIoapicArb |
  .rdIoapicRedir _ => {}

/-- The `sp` field of a request word and its `idx` field (30_encoding.md R61). -/
def Addr.fields : Addr → BitVec 2 × BitVec 12
  | .lapic off => (0b00, off)
  | .ioapic i => (0b01, i.setWidth 12)

/-- The `dir` field of a request word (30_encoding.md R61). -/
def Dir.bit : Dir → BitVec 1
  | .read => 0
  | .write => 1

/-- The request word `sp[15:14] dir[13] z[12] idx[11:0]` (30_encoding.md R61). -/
def Request.encode (r : Request) : Word16 :=
  let f := r.reg.slots.low.fields
  f.1 ++ r.dir.bit ++ (0 : BitVec 1) ++ f.2

/-- The words of an operation: one request word (30_encoding.md R61, R64). -/
def encode (i : Instr) : List Word16 := [i.request.encode]

/-- The request an operation is offered as: its word and its value (30_encoding.md R60). -/
def Instr.offer (i : Instr) : Offer := { word := i.request.encode, value := i.value }

/-! ### The host's view of the opcode table -/

/-- The request word of `nbits` bits whose number is `w`; a request is one 16-bit word. -/
def tableWord (nbits w : Nat) : Option Word16 :=
  if nbits ≤ 16 ∧ w < 2 ^ 16 then some (BitVec.ofNat 16 w) else none

/-- The operation the decoder reads from the table word `w`, a write's value record with every field
omitted (00_scope.md R12), for the parameters of `State.reset` (log entry 1). -/
def decodeTableWord (nbits w : Nat) : Option Instr :=
  match tableWord nbits w with
  | none => none
  | some word =>
    match decode Params.atReset { word := word } with
    | .ok i => some i
    | .error _ => none

end Sys2Proof
end

