-- ==== Sys2Proof/Machine/State.lean ====
section
/-!
DEFINITION. The state of the block (10_state.md R22, R24), its responses and bus events, and the reset
state (R31). Spec state is exactly `Instance`, the request port and the history; the other fields of
`Context` and `State` are the model's own inputs and bookkeeping, named as such (INVENTORY.md, State).
-/

namespace Sys2Proof.Machine

/-! ### One sequencer instance -/

/-- The capability tags (10_state.md R27, 45_register_access.md R200). -/
inductive Capability
  | readOnly
  | writeOnly
  | readWrite
deriving DecidableEq, Repr

/-- `FatalCode` (10_state.md R22). -/
inductive FatalCode
  | readOnlyViolation
  | writeOnlyViolation
  | unknownRegister
deriving DecidableEq, Repr

/-- `phase` (10_state.md R22, 43_split_sequencer.md R177). -/
inductive Phase
  | idle
  | busy
deriving DecidableEq, Repr

/-- `BusOp := Rd(space, idx) | Wr(space, idx, Word32)` (10_state.md R22). -/
inductive BusOp
  | rd (a : Addr)
  | wr (a : Addr) (w : Word32)
deriving DecidableEq, Repr

/-- The state of one sequencer instance, field by field as 10_state.md R22 lists it. The defaults are
the reset values of R31. -/
structure Instance where
  /-- the sticky fatal-fault latch (60_exceptions.md R307) -/
  fault : Option FatalCode := none
  phase : Phase := .idle
  /-- the decoded request of the current operation -/
  req : Option Request := none
  /-- the bus accesses still to issue, head first -/
  pending : List BusOp := []
  /-- low-slot or single-slot read data; `none` until read (R23) -/
  lo : Option Word32 := none
  /-- high-slot read data; `none` until read (R23) -/
  hi : Option Word32 := none
deriving DecidableEq, Repr

/-! ### Responses and the bus history -/

/-- The results of 60_exceptions.md R300. Codes 6 and 7 are never produced. -/
inductive ResultCode
  | ok
  | invalidEncoding
  | invalidDivisor
  | readOnlyViolation
  | writeOnlyViolation
  | unknownRegister
deriving DecidableEq, Repr

/-- The field an `InvalidEncoding` names; only the DFR model field can raise it (60_exceptions.md R301). -/
inductive FieldName
  | dfrModel
deriving DecidableEq, Repr

/-- A recoverable error and its information (60_exceptions.md R300, R301, R302). The raw value is the
field's, 4 bits (decision D22). -/
inductive OpError
  | invalidEncoding (field : FieldName) (raw : BitVec 4)
  | invalidDivisor (value : Word32)
deriving DecidableEq, Repr

/-- The payload of a response (30_encoding.md R66). -/
inductive Payload
  /-- `OK` on a read: the decoded value record -/
  | value (v : Value)
  /-- `OK` on a write -/
  | empty
  /-- a recoverable error's information -/
  | error (e : OpError)
  /-- a capability violation: the register -/
  | register (r : Reg)
  /-- `UnknownRegister`: the request word -/
  | word (w : Word16)
deriving DecidableEq, Repr

/-- `Rsp(c, code, payload)` (30_encoding.md R66). -/
structure Response where
  ctx : Nat
  code : ResultCode
  payload : Payload
deriving DecidableEq, Repr

/-- `Ev(c, dir, space, idx, data)` (20_memory.md R46); the address is the space and the index. -/
structure BusEvent where
  ctx : Nat
  dir : Dir
  addr : Addr
  data : Word32
deriving DecidableEq, Repr

/-- One entry of the bus history: a bus event (20_memory.md R46) or a response, which is recorded there
after its operation's bus events (30_encoding.md R66). -/
inductive Entry
  | bus (e : BusEvent)
  | rsp (r : Response)
deriving DecidableEq, Repr

/-! ### The state -/

/-- One context (10_state.md R22, 30_encoding.md R60). -/
structure Context where
  inst : Instance := {}
  /-- the request port: the requests the caller offers, in its order, the head being on the port now -/
  port : List Offer := []
  /-- MODEL'S OWN: RawAccess faulted on this instance's access, so that it has no further step
  (60_exceptions.md R309). Log entry 6. -/
  hung : Bool := false
deriving DecidableEq, Repr

/-- What the world outside the block does next: whose instance moves (20_memory.md R48), a fault of
RawAccess (60_exceptions.md R309), or a reset (70_reset_and_hazards.md R330). -/
inductive Stimulus
  | run (c : Nat)
  | backendFault (c : Nat)
  | reset
deriving DecidableEq, Repr

/-- The state of the block and of the inputs the model's step reads. -/
structure State where
  /-- the parameters of 00_scope.md R8; no step writes them. `N_CONTEXTS` is `contexts.length`. -/
  params : Params
  /-- the contexts `0 .. N_CONTEXTS - 1` (10_state.md R22) -/
  contexts : List Context
  /-- the bus history, oldest first (10_state.md R24) -/
  history : List Entry := []
  /-- MODEL'S OWN: the context whose instance moves in this step. Log entry 4. -/
  ctx : Nat := 0
  /-- MODEL'S OWN: the stimuli still to come, next first. Log entry 4. -/
  agenda : List Stimulus := []
  /-- MODEL'S OWN: the words RawAccess answers the next bus reads with. Log entry 3. -/
  readData : List Word32 := []
  /-- MODEL'S OWN: how many bus reads were answered by a free draw. Log entry 3. -/
  draws : Nat := 0
deriving DecidableEq, Repr

/-- The faults of the model. -/
inductive Fault
  /-- A transition needed a latch that holds no value: `req` in phase Busy, or `lo` or `hi` at Complete
  of a read (10_state.md R23: "must report it as a fault, never as a value"). No state that a run
  reaches has it. Raised by `operate` and `transition`. Safe. -/
  | emptyLatch
deriving DecidableEq, Repr

/-- The refusals of the model. -/
inductive Refusal
  /-- An instruction without a meaning; no arm of `exec` answers it. Safe. -/
  | notModelled (mnemonic : String)
  /-- The stimulus names a context `c >= N_CONTEXTS`, which has no instance (10_state.md R22). Raised by
  `operate`, `transition` and `backendFault`. Safe. -/
  | noSuchContext
deriving DecidableEq, Repr

/-- The outcome of a step of this machine. -/
abbrev Result := Host.Outcome State Fault Refusal

/-- Reset of a machine with parameters `p` and `n` contexts (10_state.md R31, 70_reset_and_hazards.md
R330): every instance in its reset state, the history empty, nothing offered. -/
def State.resetWith (p : Params) (n : Nat) : State :=
  { params := p, contexts := List.replicate n {} }

/-- The machine right after reset. The OPEN parameters' values are a DESIGN CHOICE, unsafe: log entry 1. -/
def State.reset : State := State.resetWith Params.atReset 2

end Sys2Proof.Machine
end

