-- ==== Sys2Proof/Machine/Operands.lean ====
section
/-!
DEFINITION. BitfieldCodec: the field primitives, the enumerations and the layout of every register but
DCR and the priority registers (41_bitfield_codec.md R100 to R124). A codec is a pure function of its
input. The capability and the field masks of the register index (10_state.md R25, R26, R29) stand here
too.
-/

namespace Sys2Proof.Machine

/-! ### Field primitives (41_bitfield_codec.md R105) -/

/-- `get(raw, hi, lo)` of a field of `k = hi - lo + 1` bits at `lo` (R105). -/
def getField {n : Nat} (raw : BitVec n) (lo k : Nat) : BitVec k := raw.extractLsb' lo k

/-- `put(x, hi, lo)` into an `n`-bit word (R105); `x` has the field's own width. -/
def putField (n : Nat) {k : Nat} (x : BitVec k) (lo : Nat) : BitVec n := (x.setWidth n) <<< lo

/-- A one-bit field as a flag: `raw[i] = 1` (R105). -/
def getFlag {n : Nat} (raw : BitVec n) (i : Nat) : Bool := raw.getLsbD i

/-- `put(b, i, i)`: `1 << i` when `b`, else 0 (R105). -/
def putFlag (n : Nat) (b : Bool) (i : Nat) : BitVec n := if b then (1 : BitVec n) <<< i else 0

/-! ### Slots of a 64-bit value (41_bitfield_codec.md R124) -/

/-- `join(low, high)` (R124). -/
def join (low high : Word32) : Word64 := (high.setWidth 64) <<< 32 ||| low.setWidth 64

/-- `lowOf(v) = v[31:0]` (R124). -/
def lowOf (v : Word64) : Word32 := v.extractLsb' 0 32

/-- `highOf(v) = v[63:32]` (R124). -/
def highOf (v : Word64) : Word32 := v.extractLsb' 32 32

/-! ### Enumerations: bijections with their codes (41_bitfield_codec.md R106) -/

/-- The variant of a code (R107). -/
def lvtModeOfCode (c : BitVec 3) : LvtDeliveryMode :=
  match c.toNat with
  | 0 => .fixed
  | 1 => .reserved1
  | 2 => .smi
  | 3 => .reserved3
  | 4 => .nmi
  | 5 => .init
  | 6 => .reserved6
  | _ => .extInt

/-- The code of a variant (R107). -/
def lvtModeCode : LvtDeliveryMode → BitVec 3
  | .fixed => 0
  | .reserved1 => 1
  | .smi => 2
  | .reserved3 => 3
  | .nmi => 4
  | .init => 5
  | .reserved6 => 6
  | .extInt => 7

/-- The variant of a code (R108). -/
def icrModeOfCode (c : BitVec 3) : IcrDeliveryMode :=
  match c.toNat with
  | 0 => .fixed
  | 1 => .lowestPriority
  | 2 => .smi
  | 3 => .reserved3
  | 4 => .nmi
  | 5 => .init
  | 6 => .startUp
  | _ => .reserved7

/-- The code of a variant (R108). -/
def icrModeCode : IcrDeliveryMode → BitVec 3
  | .fixed => 0
  | .lowestPriority => 1
  | .smi => 2
  | .reserved3 => 3
  | .nmi => 4
  | .init => 5
  | .startUp => 6
  | .reserved7 => 7

/-- The variant of a code (R109). -/
def redirModeOfCode (c : BitVec 3) : RedirDeliveryMode :=
  match c.toNat with
  | 0 => .fixed
  | 1 => .lowestPriority
  | 2 => .smi
  | 3 => .reserved3
  | 4 => .nmi
  | 5 => .init
  | 6 => .reserved6
  | _ => .extInt

/-- The code of a variant (R109). -/
def redirModeCode : RedirDeliveryMode → BitVec 3
  | .fixed => 0
  | .lowestPriority => 1
  | .smi => 2
  | .reserved3 => 3
  | .nmi => 4
  | .init => 5
  | .reserved6 => 6
  | .extInt => 7

/-- The variant of a code (R118). -/
def timerModeOfCode (c : BitVec 2) : TimerMode :=
  match c.toNat with
  | 0 => .oneShot
  | 1 => .periodic
  | 2 => .tscDeadline
  | _ => .reserved3

/-- The code of a variant (R118). -/
def timerModeCode : TimerMode → BitVec 2
  | .oneShot => 0
  | .periodic => 1
  | .tscDeadline => 2
  | .reserved3 => 3

/-- The variant of a code (R120). -/
def shorthandOfCode (c : BitVec 2) : Shorthand :=
  match c.toNat with
  | 0 => .noShorthand
  | 1 => .self
  | 2 => .allIncludingSelf
  | _ => .allExcludingSelf

/-- The code of a variant (R120). -/
def shorthandCode : Shorthand → BitVec 2
  | .noShorthand => 0
  | .self => 1
  | .allIncludingSelf => 2
  | .allExcludingSelf => 3

/-! ### 32-bit layouts -/

/-- The identifier field bits[24+w-1:24] (R110). -/
def getId (w : IdWidth) (raw : Word32) : BitVec 8 := (getField raw 24 w.bits).setWidth 8

/-- `put(id, 23+w, 24)`: the identifier is cut to the field's width, as `put` does (R105, R110). -/
def putId (w : IdWidth) (id : BitVec 8) : Word32 := putField 32 (id.setWidth w.bits) 24

/-- R110. -/
def decodeApicId (w : IdWidth) (raw : Word32) : ApicId := { id := getId w raw }

/-- R110. -/
def encodeApicId (w : IdWidth) (v : ApicId) : Word32 := putId w v.id

/-- R123. -/
def decodeArbId (w : IdWidth) (raw : Word32) : ArbId := { arbId := getId w raw }

/-- R123: reached only by the laws, the register is ReadOnly. -/
def encodeArbId (w : IdWidth) (v : ArbId) : Word32 := putId w v.arbId

/-- R111. -/
def decodeLapicVersion (raw : Word32) : LapicVersion :=
  { version := getField raw 0 8, maxLvt := getField raw 16 8, eoiSuppression := getFlag raw 24 }

/-- R111: reached only by the laws, the register is ReadOnly. -/
def encodeLapicVersion (v : LapicVersion) : Word32 :=
  putField 32 v.version 0 ||| putField 32 v.maxLvt 16 ||| putFlag 32 v.eoiSuppression 24

/-- R112. -/
def decodeIoapicVersion (raw : Word32) : IoapicVersion :=
  { version := getField raw 0 8, maxRedir := getField raw 16 8 }

/-- R112: reached only by the laws, the register is ReadOnly. -/
def encodeIoapicVersion (v : IoapicVersion) : Word32 :=
  putField 32 v.version 0 ||| putField 32 v.maxRedir 16

/-- R113. -/
def decodeLogicalDest (raw : Word32) : LogicalDest := { logicalId := getField raw 24 8 }

/-- R113. -/
def encodeLogicalDest (v : LogicalDest) : Word32 := putField 32 v.logicalId 24

/-- R114: the only layout whose decode can fail. -/
def decodeDestFormat (raw : Word32) : Except OpError DestFormat :=
  let m := getField raw 28 4
  if m = 0xF then .ok .flat
  else if m = 0x0 then .ok .cluster
  else .error (.invalidEncoding .dfrModel m)

/-- `code(Flat) = 0xF`, `code(Cluster) = 0x0` (R115). -/
def destFormatCode : DestFormat → BitVec 4
  | .flat => 0xF
  | .cluster => 0x0

/-- R115: the reserved bits[27:0] carry the fixed pattern of all ones. -/
def encodeDestFormat (v : DestFormat) : Word32 := putField 32 (destFormatCode v) 28 ||| 0x0FFFFFFF

/-- R116. -/
def decodeSpuriousVector (raw : Word32) : SpuriousVector :=
  { vector := getField raw 0 8, apicEnable := getFlag raw 8, focusCheck := getFlag raw 9,
    eoiBroadcastSuppression := getFlag raw 12 }

/-- R116. -/
def encodeSpuriousVector (v : SpuriousVector) : Word32 :=
  putField 32 v.vector 0 ||| putFlag 32 v.apicEnable 8 ||| putFlag 32 v.focusCheck 9 |||
    putFlag 32 v.eoiBroadcastSuppression 12

/-- R117. -/
def decodeErrorStatus (raw : Word32) : ErrorStatus :=
  { e0 := getFlag raw 0, e1 := getFlag raw 1, e2 := getFlag raw 2, e3 := getFlag raw 3,
    e4 := getFlag raw 4, e5 := getFlag raw 5, e6 := getFlag raw 6, e7 := getFlag raw 7 }

/-- R117. -/
def encodeErrorStatus (v : ErrorStatus) : Word32 :=
  putFlag 32 v.e0 0 ||| putFlag 32 v.e1 1 ||| putFlag 32 v.e2 2 ||| putFlag 32 v.e3 3 |||
    putFlag 32 v.e4 4 ||| putFlag 32 v.e5 5 ||| putFlag 32 v.e6 6 ||| putFlag 32 v.e7 7

/-- R119. -/
def decodeLvtEntry (raw : Word32) : LvtEntry :=
  { vector := getField raw 0 8, deliveryMode := lvtModeOfCode (getField raw 8 3),
    deliveryStatus := getFlag raw 12, polarity := getFlag raw 13, remoteIrr := getFlag raw 14,
    trigger := getFlag raw 15, mask := getFlag raw 16 }

/-- R119. -/
def encodeLvtEntry (v : LvtEntry) : Word32 :=
  putField 32 v.vector 0 ||| putField 32 (lvtModeCode v.deliveryMode) 8 |||
    putFlag 32 v.deliveryStatus 12 ||| putFlag 32 v.polarity 13 ||| putFlag 32 v.remoteIrr 14 |||
    putFlag 32 v.trigger 15 ||| putFlag 32 v.mask 16

/-- R118. -/
def decodeLvtTimer (raw : Word32) : LvtTimer :=
  { vector := getField raw 0 8, deliveryMode := lvtModeOfCode (getField raw 8 3),
    deliveryStatus := getFlag raw 12, polarity := getFlag raw 13, remoteIrr := getFlag raw 14,
    trigger := getFlag raw 15, mask := getFlag raw 16,
    timerMode := timerModeOfCode (getField raw 17 2) }

/-- R118. -/
def encodeLvtTimer (v : LvtTimer) : Word32 :=
  putField 32 v.vector 0 ||| putField 32 (lvtModeCode v.deliveryMode) 8 |||
    putFlag 32 v.deliveryStatus 12 ||| putFlag 32 v.polarity 13 ||| putFlag 32 v.remoteIrr 14 |||
    putFlag 32 v.trigger 15 ||| putFlag 32 v.mask 16 ||| putField 32 (timerModeCode v.timerMode) 17

/-- R122. -/
def decodeWord (raw : Word32) : Word32 := raw

/-- R122. -/
def encodeWord (v : Word32) : Word32 := v

/-! ### 64-bit layouts -/

/-- R120. -/
def decodeIcr (raw : Word64) : Icr :=
  { vector := getField raw 0 8, deliveryMode := icrModeOfCode (getField raw 8 3),
    destMode := getFlag raw 11, deliveryStatus := getFlag raw 12, level := getFlag raw 14,
    trigger := getFlag raw 15, shorthand := shorthandOfCode (getField raw 18 2),
    destination := getField raw 56 8 }

/-- R120. -/
def encodeIcr (v : Icr) : Word64 :=
  putField 64 v.vector 0 ||| putField 64 (icrModeCode v.deliveryMode) 8 ||| putFlag 64 v.destMode 11 |||
    putFlag 64 v.deliveryStatus 12 ||| putFlag 64 v.level 14 ||| putFlag 64 v.trigger 15 |||
    putField 64 (shorthandCode v.shorthand) 18 ||| putField 64 v.destination 56

/-- R121; the destination is bits[63:56] in both destination modes (90_conflicts.md C3). -/
def decodeRedirEntry (raw : Word64) : RedirEntry :=
  { vector := getField raw 0 8, deliveryMode := redirModeOfCode (getField raw 8 3),
    destMode := getFlag raw 11, deliveryStatus := getFlag raw 12, polarity := getFlag raw 13,
    remoteIrr := getFlag raw 14, trigger := getFlag raw 15, mask := getFlag raw 16,
    destination := getField raw 56 8 }

/-- R121. -/
def encodeRedirEntry (v : RedirEntry) : Word64 :=
  putField 64 v.vector 0 ||| putField 64 (redirModeCode v.deliveryMode) 8 |||
    putFlag 64 v.destMode 11 ||| putFlag 64 v.deliveryStatus 12 ||| putFlag 64 v.polarity 13 |||
    putFlag 64 v.remoteIrr 14 ||| putFlag 64 v.trigger 15 ||| putFlag 64 v.mask 16 |||
    putField 64 v.destination 56

/-! ### Register index: capabilities and masks -/

/-- The capability tag of a register (10_state.md R25, R26). No register is WriteOnly (R27). -/
def capability (p : Params) : Reg → Capability
  | .lapicVer | .lapicPpr | .lapicTmrCur | .ioapicVer | .ioapicArb => .readOnly
  | .lapicApr =>
    match p.aprCapability with
    | .readOnly => .readOnly
    | .readWrite => .readWrite
  | .lapicId | .lapicTpr | .lapicEoi | .lapicLdr | .lapicDfr | .lapicSvr | .lapicEsr | .lapicLvtCmci
  | .lapicIcr | .lapicLvtTimer | .lapicLvtThermal | .lapicLvtPerf | .lapicLvtLint0 | .lapicLvtLint1
  | .lapicLvtError | .lapicTmrInit | .lapicDcr | .ioapicId | .ioapicRedir _ => .readWrite

/-- The FieldMask of an APIC ID of width `w` (10_state.md R29). -/
def idMask : IdWidth → Word64
  | .eight => 0xFF000000
  | .four => 0x0F000000

/-- The FieldMask of a register's layout, a 32-bit register's in the low half (10_state.md R29). -/
def fieldMask (p : Params) : Reg → Word64
  | .lapicId => idMask p.lapicIdWidth
  | .ioapicId | .ioapicArb => idMask p.ioapicIdWidth
  | .lapicVer => 0x01FF00FF
  | .ioapicVer => 0x00FF00FF
  | .lapicTpr | .lapicApr | .lapicPpr => 0x000000FF
  | .lapicLdr => 0xFF000000
  | .lapicDfr => 0xF0000000
  | .lapicSvr => 0x000013FF
  | .lapicEsr => 0x000000FF
  | .lapicLvtTimer => 0x0007F7FF
  | .lapicLvtCmci | .lapicLvtThermal | .lapicLvtPerf | .lapicLvtLint0 | .lapicLvtLint1
  | .lapicLvtError => 0x0001F7FF
  | .lapicIcr => 0xFF000000000CDFFF
  | .ioapicRedir _ => 0xFF0000000001FFFF
  | .lapicDcr => 0x0000000B
  | .lapicEoi | .lapicTmrInit | .lapicTmrCur => 0xFFFFFFFF

/-- The fixed reserved pattern of a register's layout (10_state.md R29). -/
def fixedPattern : Reg → Word64
  | .lapicDfr => 0x0FFFFFFF
  | .lapicId | .lapicVer | .lapicTpr | .lapicApr | .lapicPpr | .lapicEoi | .lapicLdr | .lapicSvr
  | .lapicEsr | .lapicLvtCmci | .lapicIcr | .lapicLvtTimer | .lapicLvtThermal | .lapicLvtPerf
  | .lapicLvtLint0 | .lapicLvtLint1 | .lapicLvtError | .lapicTmrInit | .lapicTmrCur | .lapicDcr
  | .ioapicId | .ioapicVer | .ioapicArb | .ioapicRedir _ => 0

end Sys2Proof.Machine
end

