-- ==== Sys2Proof/Machine/Divisor.lean ====
section
/-!
DEFINITION. ScatteredFieldCodec: the timer divisor of the DCR (42_scattered_divisor.md R150 to R154).
-/

namespace Sys2Proof.Machine

/-- `rotl_8(x, k)` for `0 <= k <= 7` (00_scope.md R10). -/
def rotl8 (x : BitVec 8) (k : Nat) : BitVec 8 := x <<< k ||| x >>> (8 - k)

/-- `gather(raw) = (raw[3] << 2) | raw[1:0]` (R150). -/
def gather (raw : Word32) : BitVec 3 := putField 3 (getField raw 3 1) 2 ||| putField 3 (getField raw 0 2) 0

/-- `scatter(code) = (code[2] << 3) | code[1:0]` (R150). -/
def scatter (code : BitVec 3) : Word32 :=
  putField 32 (getField code 2 1) 3 ||| putField 32 (getField code 0 2) 0

/-- `decode_DCR`, the rotate form (R151). -/
def decodeDivisor (raw : Word32) : Divisor :=
  { divisor := (rotl8 0x02 (gather raw).toNat).setWidth 32 }

/-- The divisor table: divisor and raw encoding, row by row (R152). -/
def divisorTable : List (Word32 × Word32) :=
  [(2, 0x0), (4, 0x1), (8, 0x2), (16, 0x3), (32, 0x8), (64, 0x9), (128, 0xA), (1, 0xB)]

/-- `encode_DCR`, the inverse lookup (R153). -/
def encodeDivisor (v : Divisor) : Except OpError Word32 :=
  match divisorTable.find? (fun row => row.1 == v.divisor) with
  | some row => .ok row.2
  | none => .error (.invalidDivisor v.divisor)

end Sys2Proof.Machine
end

