-- ==== Sys2Proof/Machine/Flags.lean ====
section
/-!
DEFINITION. The block has no condition flags (10_state.md R21). Its only status output is the result
code of a response (60_exceptions.md R300): the codes, and the code and payload of each error.
-/

namespace Sys2Proof.Machine

/-- The 3-bit number of a result (R300). -/
def resultNumber : ResultCode → BitVec 3
  | .ok => 0
  | .invalidEncoding => 1
  | .invalidDivisor => 2
  | .readOnlyViolation => 3
  | .writeOnlyViolation => 4
  | .unknownRegister => 5

/-- The result of a fatal error (R300, class fatal). -/
def fatalResult : FatalCode → ResultCode
  | .readOnlyViolation => .readOnlyViolation
  | .writeOnlyViolation => .writeOnlyViolation
  | .unknownRegister => .unknownRegister

/-- The result of a recoverable error (R300, class recoverable). -/
def errorResult : OpError → ResultCode
  | .invalidEncoding _ _ => .invalidEncoding
  | .invalidDivisor _ => .invalidDivisor

end Sys2Proof.Machine
end

