-- ==== Sys2Proof/Machine/PriorityField.lean ====
section
/-!
DEFINITION. PriorityField: the priority byte shared by TPR, APR and PPR (44_priority_field.md R190 to
R194).
-/

namespace Sys2Proof.Machine

/-- The builder from wider integers: bits[3:0] of each argument (R190, 90_conflicts.md C5). R190 gives the
arguments no width. DESIGN CHOICE, safe: log entry 20. They are words of any two widths `m` and `n`, of which
one narrower than 4 bits is zero-extended. -/
def mkPriority {m n : Nat} (c : BitVec m) (s : BitVec n) : Priority := { cls := c.setWidth 4, subClass := s.setWidth 4 }

/-- `class = (b >> 4) & 0xF`, `subClass = b & 0xF` (R191). -/
def decodePrio (b : BitVec 8) : Priority := { cls := getField b 4 4, subClass := getField b 0 4 }

/-- `(class << 4) | subClass` (R192). -/
def encodePrio (p : Priority) : BitVec 8 := putField 8 p.cls 4 ||| putField 8 p.subClass 0

/-- The register layout: the low byte (R194). -/
def decodePriority (raw : Word32) : Priority := decodePrio (getField raw 0 8)

/-- `zext_32(encodePrio(p))` (R194). -/
def encodePriority (p : Priority) : Word32 := (encodePrio p).setWidth 32

end Sys2Proof.Machine
end

