-- ==== Sys2Proof/Machine/Ops.lean ====
section
/-!
DEFINITION. The named operations: access to the current context, bus reads and the history, the fatal
fault and its only end, reset, the transitions Accept, Issue and Complete (43_split_sequencer.md R177),
and ReadOp and WriteOp built on them (45_register_access.md R201, R202).
-/

namespace Sys2Proof.Machine

/-! ### State access -/

/-- The context whose instance moves in this step. -/
def State.cur? (s : State) : Option Context := s.contexts[s.ctx]?

/-- Replace the current context. -/
def State.setCur (s : State) (k : Context) : State := { s with contexts := s.contexts.set s.ctx k }

/-- Append to the bus history (20_memory.md R46). -/
def State.log (s : State) (e : Entry) : State := { s with history := s.history ++ [e] }

/-- The word RawAccess returns to the next bus read: the input script's next word, else a free draw
(10_state.md R28). -/
def State.readWord (s : State) : Word32 :=
  match s.readData with
  | d :: _ => d
  | [] => Config.busDraw s.draws

/-- The inputs left after a bus read. -/
def State.afterRead (s : State) : State :=
  match s.readData with
  | _ :: rest => { s with readData := rest }
  | [] => { s with draws := s.draws + 1 }

/-- `Rsp(c, code, payload)` of the current context (30_encoding.md R66). -/
def State.respond (s : State) (code : ResultCode) (payload : Payload) : State :=
  s.log (.rsp { ctx := s.ctx, code := code, payload := payload })

/-! ### Errors and reset -/

/-- A fatal error: latch the fault and send the response; nothing is saved, no vector is taken, no bus
event is issued and the phase stays Idle (60_exceptions.md R307, R312). -/
def takeFatal (f : FatalCode) (payload : Payload) (k : Context) (s : State) : State :=
  (s.setCur { k with inst := { k.inst with fault := some f } }).respond (fatalResult f) payload

/-- A recoverable error found at Accept: the response alone (60_exceptions.md R306). -/
def takeRecoverable (e : OpError) (s : State) : State := s.respond (errorResult e) (.error e)

/-- Reset, the only event that clears a latched fault (70_reset_and_hazards.md R330): every instance in
its reset state, the history empty. The callers' ports and the other inputs are outside the block and
stay (log entry 7). -/
def takeReset (s : State) : State :=
  { s with contexts := s.contexts.map (fun k => { k with inst := {}, hung := false }), history := [] }

/-- `UnknownRegister(w)` (60_exceptions.md R305). -/
def unknownRegister (w : Word16) (k : Context) (s : State) : State :=
  takeFatal .unknownRegister (.word w) k s

/-- `CapCheck` (45_register_access.md R203), its WriteOnly arm kept although no register has that tag
(R204). -/
def capCheck (cap : Capability) (dir : Dir) : Option FatalCode :=
  match dir, cap with
  | .write, .readOnly => some .readOnlyViolation
  | .read, .writeOnly => some .writeOnlyViolation
  | .write, .writeOnly | .write, .readWrite | .read, .readOnly | .read, .readWrite => none

/-- RawAccess faults on context `c`'s access in flight: the instance stays Busy with that access at the
head of `pending` and has no further step; no event, no value, no response (60_exceptions.md R309).
With no access in flight nothing faults. -/
def backendFault (c : Nat) (s : State) : Result :=
  match s.contexts[c]? with
  | none => .refused .noSuchContext
  | some k =>
    if k.inst.phase = .busy ∧ k.inst.pending ≠ [] then
      .next { s with contexts := s.contexts.set c { k with hung := true } }
    else .next s

/-! ### The bus accesses of an operation -/

/-- The accesses of a read: the slot, or both slots in `SPLIT_READ_ORDER` (43_split_sequencer.md R171,
R177). -/
def readOps (order : SplitReadOrder) (sl : Slots) : List BusOp :=
  match sl.high, order with
  | none, _ => [.rd sl.low]
  | some h, .lowFirst => [.rd sl.low, .rd h]
  | some h, .highFirst => [.rd h, .rd sl.low]

/-- The access of a 32-bit write (43_split_sequencer.md R177). -/
def writeOps32 (sl : Slots) (raw : Word32) : List BusOp := [.wr sl.low raw]

/-- The accesses of a wide write: the high slot first, the low slot last (43_split_sequencer.md R172). -/
def writeOps64 (sl : Slots) (raw : Word64) : List BusOp :=
  match sl.high with
  | some h => [.wr h (highOf raw), .wr sl.low (lowOf raw)]
  | none => [.wr sl.low (lowOf raw)]

/-! ### The phase machine (43_split_sequencer.md R177) -/

/-- What an operation ends in: a value (a read), nothing (a write), or a recoverable error. -/
abbrev OpResult := Except OpError (Option Value)

/-- Transition (1) Accept of a decoded request: capability check, then encode, then `pending`
(precedence: 60_exceptions.md R308). `ops` is the list of bus accesses or the encode error. -/
def accept (r : Request) (ops : Except OpError (List BusOp)) (k : Context) (s : State) : State :=
  match capCheck (capability s.params r.reg) r.dir with
  | some f => takeFatal f (.register r.reg) k s
  | none =>
    match ops with
    | .error e => takeRecoverable e s
    | .ok l => s.setCur { k with inst := { k.inst with req := some r, pending := l, phase := .busy } }

/-- Transition (2) Issue of the head of `pending`: perform the access, record the event, latch a read's
word in `hi` if it is the register's high slot, else in `lo`. -/
def issue (r : Request) (op : BusOp) (rest : List BusOp) (k : Context) (s : State) : State :=
  match op with
  | .rd a =>
    let x : Instance :=
      if r.reg.slots.high = some a then { k.inst with hi := some s.readWord, pending := rest }
      else { k.inst with lo := some s.readWord, pending := rest }
    (s.afterRead.setCur { k with inst := x }).log
      (.bus { ctx := s.ctx, dir := .read, addr := a, data := s.readWord })
  | .wr a w =>
    (s.setCur { k with inst := { k.inst with pending := rest } }).log
      (.bus { ctx := s.ctx, dir := .write, addr := a, data := w })

/-- The response of an operation that reached Complete (30_encoding.md R66, 60_exceptions.md R301). -/
def State.respondResult (s : State) : OpResult → State
  | .ok (some v) => s.respond .ok (.value v)
  | .ok none => s.respond .ok .empty
  | .error e => s.respond (errorResult e) (.error e)

/-- Transition (3) Complete: respond; `req`, `lo` and `hi` empty; the phase Idle. -/
def complete (res : OpResult) (k : Context) (s : State) : State :=
  (s.setCur { k with inst := { k.inst with req := none, lo := none, hi := none, phase := .idle } })
    |>.respondResult res

/-- One transition of the operation `r` of the current context. `ops` are its bus accesses, `finish` its
result from the latches.
A hung instance has no step (60_exceptions.md R309), a faulted one no Accept (R307), and an instance busy
with another request does not accept this one (30_encoding.md R60): the request waits, the state stays. -/
def operate (r : Request) (ops : Except OpError (List BusOp)) (finish : Instance → Except Fault OpResult)
    (s : State) : Result :=
  match s.cur? with
  | none => .refused .noSuchContext
  | some k =>
    if k.hung then .next s
    else
      match k.inst.phase with
      | .idle => if k.inst.fault = none then .next (accept r ops k s) else .next s
      | .busy =>
        if k.inst.req = some r then
          match k.inst.pending with
          | op :: rest => .next (issue r op rest k s)
          | [] =>
            match finish k.inst with
            | .error f => .fault f
            | .ok res => .next (complete res k s)
        else .next s

/-! ### ReadOp and WriteOp -/

/-- The result of a 32-bit read from its latch (43_split_sequencer.md R177 (3)); an empty latch is a
fault (10_state.md R23). -/
def finishRead32 (dec : Word32 → Except OpError Value) (x : Instance) : Except Fault OpResult :=
  match x.lo with
  | none => .error .emptyLatch
  | some lo => .ok ((dec lo).map some)

/-- The result of a wide read from both latches (43_split_sequencer.md R177 (3), R171). -/
def finishRead64 (dec : Word64 → Value) (x : Instance) : Except Fault OpResult :=
  match x.lo, x.hi with
  | some lo, some hi => .ok (.ok (some (dec (join lo hi))))
  | _, _ => .error .emptyLatch

/-- The result of a write (43_split_sequencer.md R177 (3)). -/
def finishWrite (_ : Instance) : Except Fault OpResult := .ok (.ok none)

/-- `ReadOp(R)` of a 32-bit register (45_register_access.md R201). -/
def readOp32 (reg : Reg) (dec : Word32 → Except OpError Value) (s : State) : Result :=
  operate ⟨reg, .read⟩ (.ok (readOps s.params.splitReadOrder reg.slots)) (finishRead32 dec) s

/-- `ReadOp(R)` of a wide register, `SplitRead` (45_register_access.md R201, 43_split_sequencer.md R171). -/
def readOp64 (reg : Reg) (dec : Word64 → Value) (s : State) : Result :=
  operate ⟨reg, .read⟩ (.ok (readOps s.params.splitReadOrder reg.slots)) (finishRead64 dec) s

/-- `WriteOp(R, v)` of a 32-bit register, `raw` being the encoded value (45_register_access.md R202). -/
def writeOp32 (reg : Reg) (raw : Except OpError Word32) (s : State) : Result :=
  operate ⟨reg, .write⟩ (raw.map (writeOps32 reg.slots)) finishWrite s

/-- `WriteOp(R, v)` of a wide register, `SplitWrite` (45_register_access.md R202, 43_split_sequencer.md
R172). -/
def writeOp64 (reg : Reg) (raw : Word64) (s : State) : Result :=
  operate ⟨reg, .write⟩ (.ok (writeOps64 reg.slots raw)) finishWrite s

end Sys2Proof.Machine
end

