-- ==== Sys2Proof/Machine/IoapicOps.lean ====
section
/-!
DEFINITION. The meanings of the I/O APIC operations (47_ioapic_ops.md R270 to R277).
Each meaning is one transition of its operation on the current context (43_split_sequencer.md R177): Accept
in phase Idle, Issue and Complete in phase Busy.
-/

namespace Sys2Proof.Machine

/-- `RD.IOAPIC.ID` (47_ioapic_ops.md R270), layout 41_bitfield_codec.md R110. -/
def execRdIoapicId (s : State) : Result :=
  readOp32 .ioapicId (fun raw => .ok (.apicId (decodeApicId s.params.ioapicIdWidth raw))) s

/-- `WR.IOAPIC.ID` (47_ioapic_ops.md R271), layout 41_bitfield_codec.md R110. -/
def execWrIoapicId (v : ApicId) (s : State) : Result :=
  writeOp32 .ioapicId (.ok (encodeApicId s.params.ioapicIdWidth v)) s

/-- `RD.IOAPIC.VER` (47_ioapic_ops.md R272), layout 41_bitfield_codec.md R112. -/
def execRdIoapicVer (s : State) : Result :=
  readOp32 .ioapicVer (fun raw => .ok (.ioapicVersion (decodeIoapicVersion raw))) s

/-- `WR.IOAPIC.VER` (47_ioapic_ops.md R273), layout 41_bitfield_codec.md R112: always `ReadOnlyViolation`. -/
def execWrIoapicVer (v : IoapicVersion) (s : State) : Result :=
  writeOp32 .ioapicVer (.ok (encodeIoapicVersion v)) s

/-- `RD.IOAPIC.ARB` (47_ioapic_ops.md R274), layout 41_bitfield_codec.md R123. -/
def execRdIoapicArb (s : State) : Result :=
  readOp32 .ioapicArb (fun raw => .ok (.arbId (decodeArbId s.params.ioapicIdWidth raw))) s

/-- `WR.IOAPIC.ARB` (47_ioapic_ops.md R275), layout 41_bitfield_codec.md R123: always `ReadOnlyViolation`. -/
def execWrIoapicArb (v : ArbId) (s : State) : Result :=
  writeOp32 .ioapicArb (.ok (encodeArbId s.params.ioapicIdWidth v)) s

/-- `RD.IOAPIC.REDIR` (47_ioapic_ops.md R276), layout 41_bitfield_codec.md R121. -/
def execRdIoapicRedir (n : Fin 120) (s : State) : Result :=
  readOp64 (.ioapicRedir n) (fun raw => .redirEntry (decodeRedirEntry raw)) s

/-- `WR.IOAPIC.REDIR` (47_ioapic_ops.md R277), layout 41_bitfield_codec.md R121: the high slot first. -/
def execWrIoapicRedir (n : Fin 120) (v : RedirEntry) (s : State) : Result :=
  writeOp64 (.ioapicRedir n) (encodeRedirEntry v) s

end Sys2Proof.Machine
end

