-- ==== Sys2Proof/Machine/LapicOps.lean ====
section
/-!
DEFINITION. The meanings of the Local APIC operations (46_lapic_ops.md R220 to R261).
Each meaning is one transition of its operation on the current context (43_split_sequencer.md R177): Accept
in phase Idle, Issue and Complete in phase Busy.
-/

namespace Sys2Proof.Machine

/-- `RD.LAPIC.ID` (46_lapic_ops.md R220), layout 41_bitfield_codec.md R110. -/
def execRdLapicId (s : State) : Result :=
  readOp32 .lapicId (fun raw => .ok (.apicId (decodeApicId s.params.lapicIdWidth raw))) s

/-- `WR.LAPIC.ID` (46_lapic_ops.md R221), layout 41_bitfield_codec.md R110. -/
def execWrLapicId (v : ApicId) (s : State) : Result :=
  writeOp32 .lapicId (.ok (encodeApicId s.params.lapicIdWidth v)) s

/-- `RD.LAPIC.VER` (46_lapic_ops.md R222), layout 41_bitfield_codec.md R111. -/
def execRdLapicVer (s : State) : Result :=
  readOp32 .lapicVer (fun raw => .ok (.lapicVersion (decodeLapicVersion raw))) s

/-- `WR.LAPIC.VER` (46_lapic_ops.md R223), layout 41_bitfield_codec.md R111: always `ReadOnlyViolation`. -/
def execWrLapicVer (v : LapicVersion) (s : State) : Result :=
  writeOp32 .lapicVer (.ok (encodeLapicVersion v)) s

/-- `RD.LAPIC.TPR` (46_lapic_ops.md R224), layout 44_priority_field.md R194. -/
def execRdLapicTpr (s : State) : Result :=
  readOp32 .lapicTpr (fun raw => .ok (.priority (decodePriority raw))) s

/-- `WR.LAPIC.TPR` (46_lapic_ops.md R225), layout 44_priority_field.md R194. -/
def execWrLapicTpr (v : Priority) (s : State) : Result :=
  writeOp32 .lapicTpr (.ok (encodePriority v)) s

/-- `RD.LAPIC.APR` (46_lapic_ops.md R226), layout 44_priority_field.md R194. -/
def execRdLapicApr (s : State) : Result :=
  readOp32 .lapicApr (fun raw => .ok (.priority (decodePriority raw))) s

/-- `WR.LAPIC.APR` (46_lapic_ops.md R227), layout 44_priority_field.md R194: as `APR_CAPABILITY` says. -/
def execWrLapicApr (v : Priority) (s : State) : Result :=
  writeOp32 .lapicApr (.ok (encodePriority v)) s

/-- `RD.LAPIC.PPR` (46_lapic_ops.md R228), layout 44_priority_field.md R194. -/
def execRdLapicPpr (s : State) : Result :=
  readOp32 .lapicPpr (fun raw => .ok (.priority (decodePriority raw))) s

/-- `WR.LAPIC.PPR` (46_lapic_ops.md R229), layout 44_priority_field.md R194: always `ReadOnlyViolation`. -/
def execWrLapicPpr (v : Priority) (s : State) : Result :=
  writeOp32 .lapicPpr (.ok (encodePriority v)) s

/-- `RD.LAPIC.EOI` (46_lapic_ops.md R230), layout 41_bitfield_codec.md R122. -/
def execRdLapicEoi (s : State) : Result :=
  readOp32 .lapicEoi (fun raw => .ok (.word (decodeWord raw))) s

/-- `WR.LAPIC.EOI` (46_lapic_ops.md R231), layout 41_bitfield_codec.md R122. -/
def execWrLapicEoi (v : Word32) (s : State) : Result :=
  writeOp32 .lapicEoi (.ok (encodeWord v)) s

/-- `RD.LAPIC.LDR` (46_lapic_ops.md R232), layout 41_bitfield_codec.md R113. -/
def execRdLapicLdr (s : State) : Result :=
  readOp32 .lapicLdr (fun raw => .ok (.logicalDest (decodeLogicalDest raw))) s

/-- `WR.LAPIC.LDR` (46_lapic_ops.md R233), layout 41_bitfield_codec.md R113. -/
def execWrLapicLdr (v : LogicalDest) (s : State) : Result :=
  writeOp32 .lapicLdr (.ok (encodeLogicalDest v)) s

/-- `RD.LAPIC.DFR` (46_lapic_ops.md R234), layout 41_bitfield_codec.md R114, R115. -/
def execRdLapicDfr (s : State) : Result :=
  readOp32 .lapicDfr (fun raw => (decodeDestFormat raw).map .destFormat) s

/-- `WR.LAPIC.DFR` (46_lapic_ops.md R235), layout 41_bitfield_codec.md R114, R115. -/
def execWrLapicDfr (v : DestFormat) (s : State) : Result :=
  writeOp32 .lapicDfr (.ok (encodeDestFormat v)) s

/-- `RD.LAPIC.SVR` (46_lapic_ops.md R236), layout 41_bitfield_codec.md R116. -/
def execRdLapicSvr (s : State) : Result :=
  readOp32 .lapicSvr (fun raw => .ok (.spuriousVector (decodeSpuriousVector raw))) s

/-- `WR.LAPIC.SVR` (46_lapic_ops.md R237), layout 41_bitfield_codec.md R116. -/
def execWrLapicSvr (v : SpuriousVector) (s : State) : Result :=
  writeOp32 .lapicSvr (.ok (encodeSpuriousVector v)) s

/-- `RD.LAPIC.ESR` (46_lapic_ops.md R238), layout 41_bitfield_codec.md R117. -/
def execRdLapicEsr (s : State) : Result :=
  readOp32 .lapicEsr (fun raw => .ok (.errorStatus (decodeErrorStatus raw))) s

/-- `WR.LAPIC.ESR` (46_lapic_ops.md R239), layout 41_bitfield_codec.md R117. -/
def execWrLapicEsr (v : ErrorStatus) (s : State) : Result :=
  writeOp32 .lapicEsr (.ok (encodeErrorStatus v)) s

/-- `RD.LAPIC.LVT_CMCI` (46_lapic_ops.md R240), layout 41_bitfield_codec.md R119. -/
def execRdLapicLvtCmci (s : State) : Result :=
  readOp32 .lapicLvtCmci (fun raw => .ok (.lvtEntry (decodeLvtEntry raw))) s

/-- `WR.LAPIC.LVT_CMCI` (46_lapic_ops.md R241), layout 41_bitfield_codec.md R119. -/
def execWrLapicLvtCmci (v : LvtEntry) (s : State) : Result :=
  writeOp32 .lapicLvtCmci (.ok (encodeLvtEntry v)) s

/-- `RD.LAPIC.ICR` (46_lapic_ops.md R242), layout 41_bitfield_codec.md R120. -/
def execRdLapicIcr (s : State) : Result :=
  readOp64 .lapicIcr (fun raw => .icr (decodeIcr raw)) s

/-- `WR.LAPIC.ICR` (46_lapic_ops.md R243), layout 41_bitfield_codec.md R120: the high slot first. -/
def execWrLapicIcr (v : Icr) (s : State) : Result :=
  writeOp64 .lapicIcr (encodeIcr v) s

/-- `RD.LAPIC.LVT_TIMER` (46_lapic_ops.md R244), layout 41_bitfield_codec.md R118. -/
def execRdLapicLvtTimer (s : State) : Result :=
  readOp32 .lapicLvtTimer (fun raw => .ok (.lvtTimer (decodeLvtTimer raw))) s

/-- `WR.LAPIC.LVT_TIMER` (46_lapic_ops.md R245), layout 41_bitfield_codec.md R118. -/
def execWrLapicLvtTimer (v : LvtTimer) (s : State) : Result :=
  writeOp32 .lapicLvtTimer (.ok (encodeLvtTimer v)) s

/-- `RD.LAPIC.LVT_THERMAL` (46_lapic_ops.md R246), layout 41_bitfield_codec.md R119. -/
def execRdLapicLvtThermal (s : State) : Result :=
  readOp32 .lapicLvtThermal (fun raw => .ok (.lvtEntry (decodeLvtEntry raw))) s

/-- `WR.LAPIC.LVT_THERMAL` (46_lapic_ops.md R247), layout 41_bitfield_codec.md R119. -/
def execWrLapicLvtThermal (v : LvtEntry) (s : State) : Result :=
  writeOp32 .lapicLvtThermal (.ok (encodeLvtEntry v)) s

/-- `RD.LAPIC.LVT_PERF` (46_lapic_ops.md R248), layout 41_bitfield_codec.md R119. -/
def execRdLapicLvtPerf (s : State) : Result :=
  readOp32 .lapicLvtPerf (fun raw => .ok (.lvtEntry (decodeLvtEntry raw))) s

/-- `WR.LAPIC.LVT_PERF` (46_lapic_ops.md R249), layout 41_bitfield_codec.md R119. -/
def execWrLapicLvtPerf (v : LvtEntry) (s : State) : Result :=
  writeOp32 .lapicLvtPerf (.ok (encodeLvtEntry v)) s

/-- `RD.LAPIC.LVT_LINT0` (46_lapic_ops.md R250), layout 41_bitfield_codec.md R119. -/
def execRdLapicLvtLint0 (s : State) : Result :=
  readOp32 .lapicLvtLint0 (fun raw => .ok (.lvtEntry (decodeLvtEntry raw))) s

/-- `WR.LAPIC.LVT_LINT0` (46_lapic_ops.md R251), layout 41_bitfield_codec.md R119. -/
def execWrLapicLvtLint0 (v : LvtEntry) (s : State) : Result :=
  writeOp32 .lapicLvtLint0 (.ok (encodeLvtEntry v)) s

/-- `RD.LAPIC.LVT_LINT1` (46_lapic_ops.md R252), layout 41_bitfield_codec.md R119. -/
def execRdLapicLvtLint1 (s : State) : Result :=
  readOp32 .lapicLvtLint1 (fun raw => .ok (.lvtEntry (decodeLvtEntry raw))) s

/-- `WR.LAPIC.LVT_LINT1` (46_lapic_ops.md R253), layout 41_bitfield_codec.md R119. -/
def execWrLapicLvtLint1 (v : LvtEntry) (s : State) : Result :=
  writeOp32 .lapicLvtLint1 (.ok (encodeLvtEntry v)) s

/-- `RD.LAPIC.LVT_ERROR` (46_lapic_ops.md R254), layout 41_bitfield_codec.md R119. -/
def execRdLapicLvtError (s : State) : Result :=
  readOp32 .lapicLvtError (fun raw => .ok (.lvtEntry (decodeLvtEntry raw))) s

/-- `WR.LAPIC.LVT_ERROR` (46_lapic_ops.md R255), layout 41_bitfield_codec.md R119. -/
def execWrLapicLvtError (v : LvtEntry) (s : State) : Result :=
  writeOp32 .lapicLvtError (.ok (encodeLvtEntry v)) s

/-- `RD.LAPIC.TMR_INIT` (46_lapic_ops.md R256), layout 41_bitfield_codec.md R122. -/
def execRdLapicTmrInit (s : State) : Result :=
  readOp32 .lapicTmrInit (fun raw => .ok (.word (decodeWord raw))) s

/-- `WR.LAPIC.TMR_INIT` (46_lapic_ops.md R257), layout 41_bitfield_codec.md R122. -/
def execWrLapicTmrInit (v : Word32) (s : State) : Result :=
  writeOp32 .lapicTmrInit (.ok (encodeWord v)) s

/-- `RD.LAPIC.TMR_CUR` (46_lapic_ops.md R258), layout 41_bitfield_codec.md R122. -/
def execRdLapicTmrCur (s : State) : Result :=
  readOp32 .lapicTmrCur (fun raw => .ok (.word (decodeWord raw))) s

/-- `WR.LAPIC.TMR_CUR` (46_lapic_ops.md R259), layout 41_bitfield_codec.md R122: always `ReadOnlyViolation`. -/
def execWrLapicTmrCur (v : Word32) (s : State) : Result :=
  writeOp32 .lapicTmrCur (.ok (encodeWord v)) s

/-- `RD.LAPIC.DCR` (46_lapic_ops.md R260), layout 42_scattered_divisor.md R151, R153. -/
def execRdLapicDcr (s : State) : Result :=
  readOp32 .lapicDcr (fun raw => .ok (.divisor (decodeDivisor raw))) s

/-- `WR.LAPIC.DCR` (46_lapic_ops.md R261), layout 42_scattered_divisor.md R151, R153: may raise `InvalidDivisor`. -/
def execWrLapicDcr (v : Divisor) (s : State) : Result :=
  writeOp32 .lapicDcr (encodeDivisor v) s

end Sys2Proof.Machine
end

