-- ==== Sys2Proof/Machine/Dispatch.lean ====
section
/-!
DEFINITION. The dispatch: one arm per operation of the opcode map (30_encoding.md R65).
-/

namespace Sys2Proof.Machine

def exec (i : Instr) (s : State) : Host.Outcome State Fault Refusal :=
  match i with
  | .rdLapicId => Sys2Proof.Machine.execRdLapicId s
  | .wrLapicId v => Sys2Proof.Machine.execWrLapicId v s
  | .rdLapicVer => Sys2Proof.Machine.execRdLapicVer s
  | .wrLapicVer v => Sys2Proof.Machine.execWrLapicVer v s
  | .rdLapicTpr => Sys2Proof.Machine.execRdLapicTpr s
  | .wrLapicTpr v => Sys2Proof.Machine.execWrLapicTpr v s
  | .rdLapicApr => Sys2Proof.Machine.execRdLapicApr s
  | .wrLapicApr v => Sys2Proof.Machine.execWrLapicApr v s
  | .rdLapicPpr => Sys2Proof.Machine.execRdLapicPpr s
  | .wrLapicPpr v => Sys2Proof.Machine.execWrLapicPpr v s
  | .rdLapicEoi => Sys2Proof.Machine.execRdLapicEoi s
  | .wrLapicEoi v => Sys2Proof.Machine.execWrLapicEoi v s
  | .rdLapicLdr => Sys2Proof.Machine.execRdLapicLdr s
  | .wrLapicLdr v => Sys2Proof.Machine.execWrLapicLdr v s
  | .rdLapicDfr => Sys2Proof.Machine.execRdLapicDfr s
  | .wrLapicDfr v => Sys2Proof.Machine.execWrLapicDfr v s
  | .rdLapicSvr => Sys2Proof.Machine.execRdLapicSvr s
  | .wrLapicSvr v => Sys2Proof.Machine.execWrLapicSvr v s
  | .rdLapicEsr => Sys2Proof.Machine.execRdLapicEsr s
  | .wrLapicEsr v => Sys2Proof.Machine.execWrLapicEsr v s
  | .rdLapicLvtCmci => Sys2Proof.Machine.execRdLapicLvtCmci s
  | .wrLapicLvtCmci v => Sys2Proof.Machine.execWrLapicLvtCmci v s
  | .rdLapicIcr => Sys2Proof.Machine.execRdLapicIcr s
  | .wrLapicIcr v => Sys2Proof.Machine.execWrLapicIcr v s
  | .rdLapicLvtTimer => Sys2Proof.Machine.execRdLapicLvtTimer s
  | .wrLapicLvtTimer v => Sys2Proof.Machine.execWrLapicLvtTimer v s
  | .rdLapicLvtThermal => Sys2Proof.Machine.execRdLapicLvtThermal s
  | .wrLapicLvtThermal v => Sys2Proof.Machine.execWrLapicLvtThermal v s
  | .rdLapicLvtPerf => Sys2Proof.Machine.execRdLapicLvtPerf s
  | .wrLapicLvtPerf v => Sys2Proof.Machine.execWrLapicLvtPerf v s
  | .rdLapicLvtLint0 => Sys2Proof.Machine.execRdLapicLvtLint0 s
  | .wrLapicLvtLint0 v => Sys2Proof.Machine.execWrLapicLvtLint0 v s
  | .rdLapicLvtLint1 => Sys2Proof.Machine.execRdLapicLvtLint1 s
  | .wrLapicLvtLint1 v => Sys2Proof.Machine.execWrLapicLvtLint1 v s
  | .rdLapicLvtError => Sys2Proof.Machine.execRdLapicLvtError s
  | .wrLapicLvtError v => Sys2Proof.Machine.execWrLapicLvtError v s
  | .rdLapicTmrInit => Sys2Proof.Machine.execRdLapicTmrInit s
  | .wrLapicTmrInit v => Sys2Proof.Machine.execWrLapicTmrInit v s
  | .rdLapicTmrCur => Sys2Proof.Machine.execRdLapicTmrCur s
  | .wrLapicTmrCur v => Sys2Proof.Machine.execWrLapicTmrCur v s
  | .rdLapicDcr => Sys2Proof.Machine.execRdLapicDcr s
  | .wrLapicDcr v => Sys2Proof.Machine.execWrLapicDcr v s
  | .rdIoapicId => Sys2Proof.Machine.execRdIoapicId s
  | .wrIoapicId v => Sys2Proof.Machine.execWrIoapicId v s
  | .rdIoapicVer => Sys2Proof.Machine.execRdIoapicVer s
  | .wrIoapicVer v => Sys2Proof.Machine.execWrIoapicVer v s
  | .rdIoapicArb => Sys2Proof.Machine.execRdIoapicArb s
  | .wrIoapicArb v => Sys2Proof.Machine.execWrIoapicArb v s
  | .rdIoapicRedir n => Sys2Proof.Machine.execRdIoapicRedir n s
  | .wrIoapicRedir n v => Sys2Proof.Machine.execWrIoapicRedir n v s

end Sys2Proof.Machine
end

