-- ==== Sys2Proof/Machine/Transition.lean ====
section
/-!
DEFINITION. One transition of the current context's instance (43_split_sequencer.md R177): which
operation it runs, from the request port in phase Idle, from the latched request in phase Busy; the
choice of stimulus; and how a request comes to stand on a port.
-/

namespace Sys2Proof.Machine

/-- Transition (1) on the request at the head of the port: decode it (30_encoding.md R62) and run the
operation's Accept, or raise `UnknownRegister` (60_exceptions.md R305). The request leaves the port. -/
def acceptOffer (o : Offer) (rest : List Offer) (k : Context) (s : State) : Result :=
  let k' : Context := { k with port := rest }
  match decode s.params o with
  | .error _ => .next (unknownRegister o.word k' (s.setCur k'))
  | .ok i => exec i (s.setCur k')

/-- One transition of the current context's instance (43_split_sequencer.md R177). In phase Busy the
operation is that of the latched request; its value was consumed at Accept, so the value port is not
read. A hung instance, a faulted one, and an idle one with nothing on its port stay as they are
(60_exceptions.md R309, R307; 70_reset_and_hazards.md R330). -/
def transition (s : State) : Result :=
  match s.cur? with
  | none => .refused .noSuchContext
  | some k =>
    if k.hung then .next s
    else
      match k.inst.phase with
      | .busy =>
        match k.inst.req with
        | some r => exec (Instr.ofRequest r {}) s
        | none => .fault .emptyLatch
      | .idle =>
        if k.inst.fault = none then
          match k.port with
          | o :: rest => acceptOffer o rest k s
          | [] => .next s
        else .next s

/-- One stimulus: a transition of a context's instance (20_memory.md R48), a fault of RawAccess
(60_exceptions.md R309), or a reset (70_reset_and_hazards.md R330). -/
def react (e : Stimulus) (s : State) : Result :=
  match e with
  | .run c => transition { s with ctx := c }
  | .backendFault c => backendFault c s
  | .reset => .next (takeReset s)

/-- The next stimulus of the agenda; with the agenda empty the current context goes on. DESIGN CHOICE,
unsafe for a claim about a run whose agenda is empty: log entry 4. -/
def runAgenda (s : State) : Result :=
  match s.agenda with
  | [] => transition s
  | e :: rest => react e { s with agenda := rest }

/-- Context `k` with `o` offered on its port and its instance able to accept it (43_split_sequencer.md
R177 (1)). -/
def Context.offering (k : Context) (o : Offer) : Context :=
  { k with
    port := o :: k.port
    hung := false
    inst := if k.inst.phase = .idle ∧ k.inst.fault = none then k.inst else {} }

/-- Context 0 offers `o`, and moves next. -/
def State.offering (s : State) (o : Offer) : State :=
  { s with
    contexts :=
      match s.contexts with
      | [] => [Context.offering {} o]
      | k :: rest => Context.offering k o :: rest
    agenda := .run 0 :: s.agenda }

end Sys2Proof.Machine
end

