-- ==== Sys2Proof/Machine/Step.lean ====
section
/-!
DEFINITION. One step of the machine, and the state whose next step runs a given request.
-/

namespace Sys2Proof.Machine

/-- One step: the next stimulus (Transition.lean). -/
def step (s : State) : Host.Outcome State Fault Refusal := runAgenda s

/-- `s` with the request word `w` offered by context 0, which moves next. A request word is 16 bits, so
`nbits` says nothing more; the value of a write is the record with every field omitted (00_scope.md
R12). This stands for the caller's request: log entry 8. -/
def State.withFetchWord (s : State) (_nbits w : Nat) : State :=
  s.offering { word := BitVec.ofNat 16 w }

end Sys2Proof.Machine
end

