-- ==== Sys2Proof/Safety.lean ====
section
/-!
DEFINITION. The terms the claims use: the shape of an uninterrupted operation, the invariant of the phase
machine, the write order of wide registers in the history, and what a run may put on the bus.
-/

namespace Sys2Proof.Machine

/-! ### An operation from its Accept to its response -/

/-- The conditions of Accept: phase Idle, no fault latched (43_split_sequencer.md R177 (1)), and RawAccess
has not left the instance stuck (60_exceptions.md R309). -/
def Context.CanAccept (k : Context) : Prop :=
  k.hung = false ∧ k.inst.phase = .idle ∧ k.inst.fault = none

/-- The context right after Accept (43_split_sequencer.md R177 (1)). -/
def Context.accepted (k : Context) (r : Request) (ops : List BusOp) : Context :=
  { k with inst := { k.inst with req := some r, pending := ops, phase := .busy } }

/-- The context back in Idle, every latch of the operation empty (43_split_sequencer.md R177 (3)). -/
def Context.finished (k : Context) : Context :=
  { k with inst := { k.inst with req := none, pending := [], lo := none, hi := none, phase := .idle } }

/-- The context with its fault latched (60_exceptions.md R307). -/
def Context.latched (k : Context) (f : FatalCode) : Context :=
  { k with inst := { k.inst with fault := some f } }

/-- RawAccess faults on the current context's access: the instance stays as it is, stuck, and no transition
of operation `i` changes anything any more (60_exceptions.md R309). -/
def StuckOnBackendFault (i : Instr) (s : State) (k : Context) : Prop :=
  backendFault s.ctx s = .next (s.setCur { k with hung := true }) ∧
    exec i (s.setCur { k with hung := true }) = .next (s.setCur { k with hung := true })

/-- The read operation `i` on the one slot `a` of `reg`, request word `word`: Accept, Issue, Complete, each
an equation of `exec` (45_register_access.md R201, 43_split_sequencer.md R177). The response's code and
payload are `result` of the word read. -/
def RunsRead (word : Word16) (i : Instr) (reg : Reg) (a : Addr)
    (result : Params → Word32 → ResultCode × Payload) : Prop :=
  (∀ p v, decode p ⟨word, v⟩ = .ok i) ∧
  ∀ (s : State) (k : Context), s.cur? = some k → k.CanAccept →
    let d := s.readWord
    let ev : Entry := .bus ⟨s.ctx, .read, a, d⟩
    let k₁ := k.accepted ⟨reg, .read⟩ [.rd a]
    let s₁ := s.setCur k₁
    let k₂ : Context := { k₁ with inst := { k₁.inst with lo := some d, pending := [] } }
    let s₂ : State := { s.afterRead.setCur k₂ with history := s.history ++ [ev] }
    let s₃ : State :=
      { s.afterRead.setCur k.finished with
        history := s.history ++
          [ev, .rsp ⟨s.ctx, (result s.params d).1, (result s.params d).2⟩] }
    exec i s = .next s₁ ∧ exec i s₁ = .next s₂ ∧ exec i s₂ = .next s₃ ∧ StuckOnBackendFault i s₁ k₁

/-- The read operation `i` on the slots `low` and `high` of the wide register `reg`: Accept, two Issues in
`SPLIT_READ_ORDER`, Complete (43_split_sequencer.md R171, R177). `value` is the decoded value of the low
and the high word. The word decodes under the parameters that have the register. -/
def RunsSplitRead (word : Word16) (i : Instr) (reg : Reg) (low high : Addr)
    (value : Word32 → Word32 → Value) : Prop :=
  (∀ p v, reg.wf p = true → decode p ⟨word, v⟩ = .ok i) ∧
  ∀ (s : State) (k : Context), s.cur? = some k → k.CanAccept →
    let d := s.readWord
    let e := s.afterRead.readWord
    let k₁ (ops : List BusOp) := k.accepted ⟨reg, .read⟩ ops
    match s.params.splitReadOrder with
    | .lowFirst =>
      let ev₁ : Entry := .bus ⟨s.ctx, .read, low, d⟩
      let ev₂ : Entry := .bus ⟨s.ctx, .read, high, e⟩
      let s₁ := s.setCur (k₁ [.rd low, .rd high])
      let k₂ : Context := { k with inst := { (k₁ [.rd high]).inst with lo := some d } }
      let s₂ : State := { s.afterRead.setCur k₂ with history := s.history ++ [ev₁] }
      let k₃ : Context := { k with inst := { (k₁ []).inst with lo := some d, hi := some e } }
      let s₃ : State := { s.afterRead.afterRead.setCur k₃ with history := s.history ++ [ev₁, ev₂] }
      let s₄ : State :=
        { s.afterRead.afterRead.setCur k.finished with
          history := s.history ++ [ev₁, ev₂, .rsp ⟨s.ctx, .ok, .value (value d e)⟩] }
      exec i s = .next s₁ ∧ exec i s₁ = .next s₂ ∧ exec i s₂ = .next s₃ ∧ exec i s₃ = .next s₄ ∧
        StuckOnBackendFault i s₁ (k₁ [.rd low, .rd high]) ∧ StuckOnBackendFault i s₂ k₂
    | .highFirst =>
      let ev₁ : Entry := .bus ⟨s.ctx, .read, high, d⟩
      let ev₂ : Entry := .bus ⟨s.ctx, .read, low, e⟩
      let s₁ := s.setCur (k₁ [.rd high, .rd low])
      let k₂ : Context := { k with inst := { (k₁ [.rd low]).inst with hi := some d } }
      let s₂ : State := { s.afterRead.setCur k₂ with history := s.history ++ [ev₁] }
      let k₃ : Context := { k with inst := { (k₁ []).inst with lo := some e, hi := some d } }
      let s₃ : State := { s.afterRead.afterRead.setCur k₃ with history := s.history ++ [ev₁, ev₂] }
      let s₄ : State :=
        { s.afterRead.afterRead.setCur k.finished with
          history := s.history ++ [ev₁, ev₂, .rsp ⟨s.ctx, .ok, .value (value e d)⟩] }
      exec i s = .next s₁ ∧ exec i s₁ = .next s₂ ∧ exec i s₂ = .next s₃ ∧ exec i s₃ = .next s₄ ∧
        StuckOnBackendFault i s₁ (k₁ [.rd high, .rd low]) ∧ StuckOnBackendFault i s₂ k₂

/-- The transitions of the write operation `i` of the word `raw` to the one slot `a` of `reg` in state `s`:
Accept, Issue, Complete (45_register_access.md R202, 43_split_sequencer.md R177). -/
def WritesSlot (i : Instr) (reg : Reg) (a : Addr) (raw : Word32) (s : State) (k : Context) : Prop :=
  let ev : Entry := .bus ⟨s.ctx, .write, a, raw⟩
  let s₁ := s.setCur (k.accepted ⟨reg, .write⟩ [.wr a raw])
  let s₂ : State := { s.setCur (k.accepted ⟨reg, .write⟩ []) with history := s.history ++ [ev] }
  let s₃ : State :=
    { s.setCur k.finished with history := s.history ++ [ev, .rsp ⟨s.ctx, .ok, .empty⟩] }
  exec i s = .next s₁ ∧ exec i s₁ = .next s₂ ∧ exec i s₂ = .next s₃

/-- The write operation `i v` on the one slot `a` of `reg`, for every value `v`, request word `word`, the
value taken from the port's `lane`. -/
def RunsWrite {α : Type} (word : Word16) (lane : ValuePort → α) (i : α → Instr) (reg : Reg) (a : Addr)
    (raw : Params → α → Word32) : Prop :=
  (∀ p v, decode p ⟨word, v⟩ = .ok (i (lane v))) ∧
  ∀ (v : α) (s : State) (k : Context), s.cur? = some k → k.CanAccept →
    WritesSlot (i v) reg a (raw s.params v) s k

/-- The write operation `i v` on the slots of the wide register `reg`: Accept, the write of the high slot,
the write of the low slot, Complete (43_split_sequencer.md R172, R177). -/
def RunsSplitWrite {α : Type} (word : Word16) (lane : ValuePort → α) (i : α → Instr) (reg : Reg)
    (low high : Addr) (rawLow rawHigh : α → Word32) : Prop :=
  (∀ p v, reg.wf p = true → decode p ⟨word, v⟩ = .ok (i (lane v))) ∧
  ∀ (v : α) (s : State) (k : Context), s.cur? = some k → k.CanAccept →
    let ev₁ : Entry := .bus ⟨s.ctx, .write, high, rawHigh v⟩
    let ev₂ : Entry := .bus ⟨s.ctx, .write, low, rawLow v⟩
    let k₁ (ops : List BusOp) := k.accepted ⟨reg, .write⟩ ops
    let s₁ := s.setCur (k₁ [.wr high (rawHigh v), .wr low (rawLow v)])
    let s₂ : State := { s.setCur (k₁ [.wr low (rawLow v)]) with history := s.history ++ [ev₁] }
    let s₃ : State := { s.setCur (k₁ []) with history := s.history ++ [ev₁, ev₂] }
    let s₄ : State :=
      { s.setCur k.finished with history := s.history ++ [ev₁, ev₂, .rsp ⟨s.ctx, .ok, .empty⟩] }
    exec (i v) s = .next s₁ ∧ exec (i v) s₁ = .next s₂ ∧ exec (i v) s₂ = .next s₃ ∧
      exec (i v) s₃ = .next s₄

/-- The operation `i` in state `s` raises the fatal error of a write to the ReadOnly register `reg`: the
fault is latched, the response is sent, and nothing else changes (45_register_access.md R203,
60_exceptions.md R303, R307). -/
def RaisesReadOnly (i : Instr) (reg : Reg) (s : State) (k : Context) : Prop :=
  exec i s = .next
    { s.setCur (k.latched .readOnlyViolation) with
      history := s.history ++ [.rsp ⟨s.ctx, .readOnlyViolation, .register reg⟩] }

/-! ### The invariant of the phase machine -/

/-- The direction and the slot of a bus access. -/
def BusOp.target : BusOp → Dir × Addr
  | .rd a => (.read, a)
  | .wr a _ => (.write, a)

/-- The accesses of an operation in the order they are issued: a wide write's high slot first
(43_split_sequencer.md R172), a wide read's slots in `SPLIT_READ_ORDER` (R171). -/
def targets (p : Params) (r : Request) : List (Dir × Addr) :=
  match r.dir, r.reg.slots.high, p.splitReadOrder with
  | .read, none, _ => [(.read, r.reg.slots.low)]
  | .read, some h, .lowFirst => [(.read, r.reg.slots.low), (.read, h)]
  | .read, some h, .highFirst => [(.read, h), (.read, r.reg.slots.low)]
  | .write, none, _ => [(.write, r.reg.slots.low)]
  | .write, some h, _ => [(.write, h), (.write, r.reg.slots.low)]

/-- `r` is an operation that Accept lets through: its register exists and its capability allows the
direction (43_split_sequencer.md R177 (1)). -/
def Admitted (p : Params) (r : Request) : Prop :=
  r.reg.wf p = true ∧ capCheck (capability p r.reg) r.dir = none

/-- A latch is filled exactly when the read that fills it has been issued (10_state.md R22, R23). -/
def Instance.LatchesMatch (x : Instance) (r : Request) : Prop :=
  match r.dir with
  | .write => x.lo = none ∧ x.hi = none
  | .read =>
    (x.lo.isSome ↔ BusOp.rd r.reg.slots.low ∉ x.pending) ∧
      (x.hi.isSome ↔ ∃ h, r.reg.slots.high = some h ∧ BusOp.rd h ∉ x.pending)

/-- What a sequencer instance can hold (10_state.md R22): nothing outside an operation; in phase Busy an
admitted request, the accesses it still has to issue, and the latches already filled. -/
def Instance.Consistent (p : Params) (x : Instance) : Prop :=
  match x.phase with
  | .idle => x.req = none ∧ x.pending = [] ∧ x.lo = none ∧ x.hi = none
  | .busy =>
    x.fault = none ∧
      ∃ r, x.req = some r ∧ Admitted p r ∧ x.pending.map BusOp.target <:+ targets p r ∧
        x.LatchesMatch r

/-- A context is consistent; a hung one has the faulting access at the head of `pending`
(60_exceptions.md R309). -/
def Context.Consistent (p : Params) (k : Context) : Prop :=
  k.inst.Consistent p ∧ (k.hung = true → k.inst.phase = .busy ∧ k.inst.pending ≠ [])

/-- The context a stimulus names exists. -/
def Stimulus.InRange (n : Nat) : Stimulus → Prop
  | .run c => c < n
  | .backendFault c => c < n
  | .reset => True

/-- The invariant of the block: the parameters are in their ranges (00_scope.md R8), every context is
consistent, and the stimuli name contexts that exist. -/
def State.Inv (s : State) : Prop :=
  s.params.wf = true ∧ s.ctx < s.contexts.length ∧ (∀ k ∈ s.contexts, k.Consistent s.params) ∧
    ∀ e ∈ s.agenda, e.InRange s.contexts.length

/-- The transitions an instance's operation still needs (70_reset_and_hazards.md R339): one Issue per bus
access left and one Complete. -/
def Context.work (k : Context) : Nat :=
  match k.inst.phase with
  | .idle => 0
  | .busy => k.inst.pending.length + 1

/-! ### What reaches the bus -/

/-- The bus events of context `c`, in the order it issued them (20_memory.md R46). -/
def eventsOf (c : Nat) : List Entry → List BusEvent
  | [] => []
  | .bus e :: rest => if e.ctx = c then e :: eventsOf c rest else eventsOf c rest
  | .rsp _ :: rest => eventsOf c rest

/-- The responses of context `c`, in order (30_encoding.md R66). -/
def responsesOf (c : Nat) : List Entry → List Response
  | [] => []
  | .rsp r :: rest => if r.ctx = c then r :: responsesOf c rest else responsesOf c rest
  | .bus _ :: rest => responsesOf c rest

/-- `h` is the high slot and `l` the low slot of one wide register (43_split_sequencer.md R170). -/
def IsPair (l h : Addr) : Prop := ∃ reg : Reg, reg.slots.low = l ∧ reg.slots.high = some h

/-- The write order at one point of a context's events (43_split_sequencer.md R172): a write of a wide
register's low slot comes right after the write of its high slot, and after a write of a high slot
nothing comes but the write of its low slot. `prev` is the event before `e`, if any. -/
def PairedStep (prev : Option BusEvent) (e : BusEvent) : Prop :=
  (∀ h, e.dir = .write → IsPair e.addr h → ∃ q, prev = some q ∧ q.dir = .write ∧ q.addr = h) ∧
    ∀ q l, prev = some q → q.dir = .write → IsPair l q.addr → e.dir = .write ∧ e.addr = l

/-- `PairedStep` at every event of the list, `prev` being the event before its first. -/
def PairedFrom (prev : Option BusEvent) : List BusEvent → Prop
  | [] => True
  | e :: rest => PairedStep prev e ∧ PairedFrom (some e) rest

/-- Context `c` has written the high slot `h` of a wide register and not yet its low slot: the low-slot
write is the only access its operation has left. -/
def Context.Staged (k : Context) (h : Addr) : Prop :=
  ∃ reg w, k.inst.phase = .busy ∧ k.inst.req = some ⟨reg, .write⟩ ∧ reg.slots.high = some h ∧
    k.inst.pending = [.wr reg.slots.low w]

/-- The write order of every context's events so far, and where it stands: the last event of a context
is a write of a high slot exactly when the low-slot write is what its instance issues next
(43_split_sequencer.md R172, R173). -/
def State.WriteOrder (s : State) : Prop :=
  ∀ c k, s.contexts[c]? = some k →
    PairedFrom none (eventsOf c s.history) ∧
      ∀ h, (k.Staged h ↔
        ∃ e l, (eventsOf c s.history).getLast? = some e ∧ e.dir = .write ∧ e.addr = h ∧ IsPair l h)

/-- Every bus event is an access of a context that exists to a slot of the register index
(20_memory.md R40, R52). -/
def State.BusIndexed (s : State) : Prop :=
  ∀ e, Entry.bus e ∈ s.history →
    e.ctx < s.contexts.length ∧
      ∃ reg : Reg, reg.wf s.params = true ∧ (e.addr = reg.slots.low ∨ reg.slots.high = some e.addr)

/-- No write event reaches a slot of a ReadOnly register (45_register_access.md R203). -/
def State.NoReadOnlyWrite (s : State) : Prop :=
  ∀ e, Entry.bus e ∈ s.history → e.dir = .write →
    ∀ reg, capability s.params reg = .readOnly →
      e.addr ≠ reg.slots.low ∧ reg.slots.high ≠ some e.addr

/-- The word `w`, written to the slot `a`, has its reserved bits fixed: outside the FieldMask of the
register that the slot belongs to it carries the fixed pattern (10_state.md R29, 41_bitfield_codec.md
R101). -/
def ReservedBitsFixed (p : Params) (a : Addr) (w : Word32) : Prop :=
  ∀ reg : Reg,
    (reg.slots.low = a → w &&& ~~~lowOf (fieldMask p reg) = lowOf (fixedPattern reg)) ∧
      (reg.slots.high = some a → w &&& ~~~highOf (fieldMask p reg) = highOf (fixedPattern reg))

/-- Every word written so far, and every word an operation is about to write, has its reserved bits
fixed (70_reset_and_hazards.md R338). -/
def State.ReservedBitsFixed (s : State) : Prop :=
  (∀ k ∈ s.contexts, ∀ a w, BusOp.wr a w ∈ k.inst.pending → Machine.ReservedBitsFixed s.params a w) ∧
    ∀ e, Entry.bus e ∈ s.history → e.dir = .write → Machine.ReservedBitsFixed s.params e.addr e.data

end Sys2Proof.Machine
end

