-- ==== Sys2Proof/Certificates/Slice0/Obligations.lean ====
section
/-!
DEFINITION. The statements for the provers. The first group says, operation by operation, what a whole
uninterrupted operation does: its request word, every transition as an equation of `exec` whose right side
is the whole next state (so that everything not named is unchanged), the bus events and the response. The
values and words are written from the layout rules as slices and concatenations, not with the model's codec.
-/

open Sys2Proof Sys2Proof.Machine

/-! ### Reads of one slot -/

/-- 46_lapic_ops.md R220, R222; layouts R110, R111. -/
def Obligations.LapicIdAndVersionReadsRun : Prop :=
  RunsRead 0x0020 .rdLapicId .lapicId (.lapic 0x020) (fun p d =>
    (.ok, .value (.apicId { id := (d.extractLsb' 24 p.lapicIdWidth.bits).setWidth 8 }))) ∧
  RunsRead 0x0030 .rdLapicVer .lapicVer (.lapic 0x030) (fun _ d =>
    (.ok, .value (.lapicVersion
      { version := d.extractLsb' 0 8, maxLvt := d.extractLsb' 16 8, eoiSuppression := d.getLsbD 24 })))

/-- 46_lapic_ops.md R224, R226, R228; layout 44_priority_field.md R194. -/
def Obligations.PriorityReadsRun : Prop :=
  RunsRead 0x0080 .rdLapicTpr .lapicTpr (.lapic 0x080) (fun _ d =>
    (.ok, .value (.priority { cls := d.extractLsb' 4 4, subClass := d.extractLsb' 0 4 }))) ∧
  RunsRead 0x0090 .rdLapicApr .lapicApr (.lapic 0x090) (fun _ d =>
    (.ok, .value (.priority { cls := d.extractLsb' 4 4, subClass := d.extractLsb' 0 4 }))) ∧
  RunsRead 0x00A0 .rdLapicPpr .lapicPpr (.lapic 0x0A0) (fun _ d =>
    (.ok, .value (.priority { cls := d.extractLsb' 4 4, subClass := d.extractLsb' 0 4 })))

/-- 46_lapic_ops.md R230, R256, R258; layout R122. -/
def Obligations.RawWordReadsRun : Prop :=
  RunsRead 0x00B0 .rdLapicEoi .lapicEoi (.lapic 0x0B0) (fun _ d => (.ok, .value (.word d))) ∧
  RunsRead 0x0380 .rdLapicTmrInit .lapicTmrInit (.lapic 0x380) (fun _ d => (.ok, .value (.word d))) ∧
  RunsRead 0x0390 .rdLapicTmrCur .lapicTmrCur (.lapic 0x390) (fun _ d => (.ok, .value (.word d)))

/-- 46_lapic_ops.md R232, R236, R238; layouts R113, R116, R117. -/
def Obligations.LdrSvrEsrReadsRun : Prop :=
  RunsRead 0x00D0 .rdLapicLdr .lapicLdr (.lapic 0x0D0) (fun _ d =>
    (.ok, .value (.logicalDest { logicalId := d.extractLsb' 24 8 }))) ∧
  RunsRead 0x00F0 .rdLapicSvr .lapicSvr (.lapic 0x0F0) (fun _ d =>
    (.ok, .value (.spuriousVector
      { vector := d.extractLsb' 0 8, apicEnable := d.getLsbD 8, focusCheck := d.getLsbD 9,
        eoiBroadcastSuppression := d.getLsbD 12 }))) ∧
  RunsRead 0x0280 .rdLapicEsr .lapicEsr (.lapic 0x280) (fun _ d =>
    (.ok, .value (.errorStatus
      { e0 := d.getLsbD 0, e1 := d.getLsbD 1, e2 := d.getLsbD 2, e3 := d.getLsbD 3,
        e4 := d.getLsbD 4, e5 := d.getLsbD 5, e6 := d.getLsbD 6, e7 := d.getLsbD 7 })))

/-- 46_lapic_ops.md R234; 41_bitfield_codec.md R114; 60_exceptions.md R301: flat, cluster, or
`InvalidEncoding` with the 4-bit field; and no transition of any other operation answers
`InvalidEncoding`. -/
def Obligations.DestFormatReadRuns : Prop :=
  RunsRead 0x00E0 .rdLapicDfr .lapicDfr (.lapic 0x0E0) (fun _ d =>
    if d.extractLsb' 28 4 = 0xF then (.ok, .value (.destFormat .flat))
    else if d.extractLsb' 28 4 = 0x0 then (.ok, .value (.destFormat .cluster))
    else (.invalidEncoding, .error (.invalidEncoding .dfrModel (d.extractLsb' 28 4)))) ∧
  ∀ (i : Instr) (s t : State) (c : Nat) (payload : Payload), exec i s = .next t →
    t.history = s.history ++ [.rsp ⟨c, .invalidEncoding, payload⟩] → i = .rdLapicDfr

/-- 46_lapic_ops.md R240, R246, R248, R250, R252, R254; layout R119. -/
def Obligations.LvtEntryReadsRun : Prop :=
  ∀ x ∈ ([(0x02F0, .rdLapicLvtCmci, .lapicLvtCmci, .lapic 0x2F0),
      (0x0330, .rdLapicLvtThermal, .lapicLvtThermal, .lapic 0x330),
      (0x0340, .rdLapicLvtPerf, .lapicLvtPerf, .lapic 0x340),
      (0x0350, .rdLapicLvtLint0, .lapicLvtLint0, .lapic 0x350),
      (0x0360, .rdLapicLvtLint1, .lapicLvtLint1, .lapic 0x360),
      (0x0370, .rdLapicLvtError, .lapicLvtError, .lapic 0x370)] : List (Word16 × Instr × Reg × Addr)),
    RunsRead x.1 x.2.1 x.2.2.1 x.2.2.2 (fun _ d =>
      (.ok, .value (.lvtEntry
        { vector := d.extractLsb' 0 8, deliveryMode := lvtModeOfCode (d.extractLsb' 8 3),
          deliveryStatus := d.getLsbD 12, polarity := d.getLsbD 13, remoteIrr := d.getLsbD 14,
          trigger := d.getLsbD 15, mask := d.getLsbD 16 })))

/-- 46_lapic_ops.md R244; layout R118. -/
def Obligations.LvtTimerReadRuns : Prop :=
  RunsRead 0x0320 .rdLapicLvtTimer .lapicLvtTimer (.lapic 0x320) (fun _ d =>
    (.ok, .value (.lvtTimer
      { vector := d.extractLsb' 0 8, deliveryMode := lvtModeOfCode (d.extractLsb' 8 3),
        deliveryStatus := d.getLsbD 12, polarity := d.getLsbD 13, remoteIrr := d.getLsbD 14,
        trigger := d.getLsbD 15, mask := d.getLsbD 16,
        timerMode := timerModeOfCode (d.extractLsb' 17 2) })))

/-- 46_lapic_ops.md R260; 42_scattered_divisor.md R150, R151: the code is bit 3 over bits[1:0]. -/
def Obligations.DivisorReadRuns : Prop :=
  RunsRead 0x03E0 .rdLapicDcr .lapicDcr (.lapic 0x3E0) (fun _ d =>
    (.ok, .value (.divisor
      { divisor :=
          ((2 : BitVec 8).rotateLeft (d.extractLsb' 3 1 ++ d.extractLsb' 0 2).toNat).setWidth 32 })))

/-- 47_ioapic_ops.md R270, R272, R274; layouts R110, R112, R123. -/
def Obligations.IoapicNarrowReadsRun : Prop :=
  RunsRead 0x4000 .rdIoapicId .ioapicId (.ioapic 0x00) (fun p d =>
    (.ok, .value (.apicId { id := (d.extractLsb' 24 p.ioapicIdWidth.bits).setWidth 8 }))) ∧
  RunsRead 0x4001 .rdIoapicVer .ioapicVer (.ioapic 0x01) (fun _ d =>
    (.ok, .value (.ioapicVersion { version := d.extractLsb' 0 8, maxRedir := d.extractLsb' 16 8 }))) ∧
  RunsRead 0x4002 .rdIoapicArb .ioapicArb (.ioapic 0x02) (fun p d =>
    (.ok, .value (.arbId { arbId := (d.extractLsb' 24 p.ioapicIdWidth.bits).setWidth 8 })))

/-! ### Reads of wide registers -/

/-- 46_lapic_ops.md R242; 43_split_sequencer.md R171; layout R120. The destination is in the high word. -/
def Obligations.IcrReadRuns : Prop :=
  RunsSplitRead 0x0300 .rdLapicIcr .lapicIcr (.lapic 0x300) (.lapic 0x310) (fun lo hi =>
    .icr
      { vector := lo.extractLsb' 0 8, deliveryMode := icrModeOfCode (lo.extractLsb' 8 3),
        destMode := lo.getLsbD 11, deliveryStatus := lo.getLsbD 12, level := lo.getLsbD 14,
        trigger := lo.getLsbD 15, shorthand := shorthandOfCode (lo.extractLsb' 18 2),
        destination := hi.extractLsb' 24 8 })

/-- 47_ioapic_ops.md R276; 43_split_sequencer.md R171; layout R121. The destination is in the high word in both
modes (90_conflicts.md C3, log entry 11). -/
def Obligations.RedirReadRuns : Prop :=
  ∀ n : Fin 120,
    RunsSplitRead (BitVec.ofNat 16 (0x4010 + 2 * n.val)) (.rdIoapicRedir n) (.ioapicRedir n)
      (.ioapic (BitVec.ofNat 8 (0x10 + 2 * n.val))) (.ioapic (BitVec.ofNat 8 (0x11 + 2 * n.val)))
      (fun lo hi =>
        .redirEntry
          { vector := lo.extractLsb' 0 8, deliveryMode := redirModeOfCode (lo.extractLsb' 8 3),
            destMode := lo.getLsbD 11, deliveryStatus := lo.getLsbD 12, polarity := lo.getLsbD 13,
            remoteIrr := lo.getLsbD 14, trigger := lo.getLsbD 15, mask := lo.getLsbD 16,
            destination := hi.extractLsb' 24 8 })

/-! ### Writes of one slot -/

/-- 46_lapic_ops.md R221, R233, R237, R239; layouts R110, R113, R116, R117. -/
def Obligations.IdLdrSvrEsrWritesRun : Prop :=
  RunsWrite 0x2020 (·.apicId) .wrLapicId .lapicId (.lapic 0x020) (fun p v =>
    (v.id.setWidth p.lapicIdWidth.bits).setWidth 32 <<< 24) ∧
  RunsWrite 0x20D0 (·.logicalDest) .wrLapicLdr .lapicLdr (.lapic 0x0D0) (fun _ v =>
    (v.logicalId ++ 0#24 : BitVec 32)) ∧
  RunsWrite 0x20F0 (·.spuriousVector) .wrLapicSvr .lapicSvr (.lapic 0x0F0) (fun _ v =>
    (0#19 ++ BitVec.ofBool v.eoiBroadcastSuppression ++ 0#2 ++ BitVec.ofBool v.focusCheck ++
      BitVec.ofBool v.apicEnable ++ v.vector : BitVec 32)) ∧
  RunsWrite 0x2280 (·.errorStatus) .wrLapicEsr .lapicEsr (.lapic 0x280) (fun _ v =>
    (0#24 ++ BitVec.ofBool v.e7 ++ BitVec.ofBool v.e6 ++ BitVec.ofBool v.e5 ++ BitVec.ofBool v.e4 ++
      BitVec.ofBool v.e3 ++ BitVec.ofBool v.e2 ++ BitVec.ofBool v.e1 ++ BitVec.ofBool v.e0 : BitVec 32))

/-- 46_lapic_ops.md R225; layout 44_priority_field.md R194. -/
def Obligations.TprWriteRuns : Prop :=
  RunsWrite 0x2080 (·.priority) .wrLapicTpr .lapicTpr (.lapic 0x080) (fun _ v =>
    (0#24 ++ v.cls ++ v.subClass : BitVec 32))

/-- 46_lapic_ops.md R227: the outcome depends on `APR_CAPABILITY`. -/
def Obligations.AprWriteFollowsItsCapability : Prop :=
  (∀ p v, decode p ⟨0x2090, v⟩ = .ok (.wrLapicApr v.priority)) ∧
  ∀ (v : Priority) (s : State) (k : Context), s.cur? = some k → k.CanAccept →
    match s.params.aprCapability with
    | .readOnly => RaisesReadOnly (.wrLapicApr v) .lapicApr s k
    | .readWrite =>
      WritesSlot (.wrLapicApr v) .lapicApr (.lapic 0x090) (0#24 ++ v.cls ++ v.subClass : BitVec 32) s k

/-- 46_lapic_ops.md R231, R257; layout R122. -/
def Obligations.RawWordWritesRun : Prop :=
  RunsWrite 0x20B0 (·.word) .wrLapicEoi .lapicEoi (.lapic 0x0B0) (fun _ v => v) ∧
  RunsWrite 0x2380 (·.word) .wrLapicTmrInit .lapicTmrInit (.lapic 0x380) (fun _ v => v)

/-- 46_lapic_ops.md R235; 41_bitfield_codec.md R115: the reserved bits are ones. -/
def Obligations.DestFormatWriteRuns : Prop :=
  RunsWrite 0x20E0 (·.destFormat) .wrLapicDfr .lapicDfr (.lapic 0x0E0) (fun _ v =>
    match v with
    | .flat => 0xFFFFFFFF
    | .cluster => 0x0FFFFFFF)

/-- 46_lapic_ops.md R241, R247, R249, R251, R253, R255; layout R119. -/
def Obligations.LvtEntryWritesRun : Prop :=
  ∀ x ∈ ([(0x22F0, .wrLapicLvtCmci, .lapicLvtCmci, .lapic 0x2F0),
      (0x2330, .wrLapicLvtThermal, .lapicLvtThermal, .lapic 0x330),
      (0x2340, .wrLapicLvtPerf, .lapicLvtPerf, .lapic 0x340),
      (0x2350, .wrLapicLvtLint0, .lapicLvtLint0, .lapic 0x350),
      (0x2360, .wrLapicLvtLint1, .lapicLvtLint1, .lapic 0x360),
      (0x2370, .wrLapicLvtError, .lapicLvtError, .lapic 0x370)] :
      List (Word16 × (LvtEntry → Instr) × Reg × Addr)),
    RunsWrite x.1 (·.lvtEntry) x.2.1 x.2.2.1 x.2.2.2 (fun _ v =>
      (0#15 ++ BitVec.ofBool v.mask ++ BitVec.ofBool v.trigger ++ BitVec.ofBool v.remoteIrr ++
        BitVec.ofBool v.polarity ++ BitVec.ofBool v.deliveryStatus ++ 0#1 ++
        lvtModeCode v.deliveryMode ++ v.vector : BitVec 32))

/-- 46_lapic_ops.md R245; layout R118. -/
def Obligations.LvtTimerWriteRuns : Prop :=
  RunsWrite 0x2320 (·.lvtTimer) .wrLapicLvtTimer .lapicLvtTimer (.lapic 0x320) (fun _ v =>
    (0#13 ++ timerModeCode v.timerMode ++ BitVec.ofBool v.mask ++ BitVec.ofBool v.trigger ++
      BitVec.ofBool v.remoteIrr ++ BitVec.ofBool v.polarity ++ BitVec.ofBool v.deliveryStatus ++ 0#1 ++
      lvtModeCode v.deliveryMode ++ v.vector : BitVec 32))

/-- 46_lapic_ops.md R261; 42_scattered_divisor.md R152, R153: the eight divisors are written as the table
says; any other divisor is answered with `InvalidDivisor`, without a bus event or any other change. -/
def Obligations.DivisorWriteFollowsItsTable : Prop :=
  (∀ p v, decode p ⟨0x23E0, v⟩ = .ok (.wrLapicDcr v.divisor)) ∧
  ∀ (s : State) (k : Context), s.cur? = some k → k.CanAccept →
    (∀ row ∈ ([(2, 0x0), (4, 0x1), (8, 0x2), (16, 0x3), (32, 0x8), (64, 0x9), (128, 0xA), (1, 0xB)] :
        List (Word32 × Word32)),
      WritesSlot (.wrLapicDcr { divisor := row.1 }) .lapicDcr (.lapic 0x3E0) row.2 s k) ∧
    ∀ d : Word32, d ∉ ([1, 2, 4, 8, 16, 32, 64, 128] : List Word32) →
      exec (.wrLapicDcr { divisor := d }) s = .next
        { s with
          history := s.history ++ [.rsp ⟨s.ctx, .invalidDivisor, .error (.invalidDivisor d)⟩] }

/-- 47_ioapic_ops.md R271; layout R110. -/
def Obligations.IoapicIdWriteRuns : Prop :=
  RunsWrite 0x6000 (·.apicId) .wrIoapicId .ioapicId (.ioapic 0x00) (fun p v =>
    (v.id.setWidth p.ioapicIdWidth.bits).setWidth 32 <<< 24)

/-- 46_lapic_ops.md R223, R229, R259; 47_ioapic_ops.md R273, R275: whatever the value, the fault is latched
and no bus event is issued. -/
def Obligations.ReadOnlyWritesLatchTheFault : Prop :=
  (∀ p v, decode p ⟨0x2030, v⟩ = .ok (.wrLapicVer v.lapicVersion) ∧
    decode p ⟨0x20A0, v⟩ = .ok (.wrLapicPpr v.priority) ∧
    decode p ⟨0x2390, v⟩ = .ok (.wrLapicTmrCur v.word) ∧
    decode p ⟨0x6001, v⟩ = .ok (.wrIoapicVer v.ioapicVersion) ∧
    decode p ⟨0x6002, v⟩ = .ok (.wrIoapicArb v.arbId)) ∧
  ∀ (s : State) (k : Context), s.cur? = some k → k.CanAccept →
    (∀ v, RaisesReadOnly (.wrLapicVer v) .lapicVer s k) ∧
    (∀ v, RaisesReadOnly (.wrLapicPpr v) .lapicPpr s k) ∧
    (∀ v, RaisesReadOnly (.wrLapicTmrCur v) .lapicTmrCur s k) ∧
    (∀ v, RaisesReadOnly (.wrIoapicVer v) .ioapicVer s k) ∧
    (∀ v, RaisesReadOnly (.wrIoapicArb v) .ioapicArb s k)

/-! ### Writes of wide registers -/

/-- 46_lapic_ops.md R243; 43_split_sequencer.md R172; layout R120. -/
def Obligations.IcrWriteRuns : Prop :=
  RunsSplitWrite 0x2300 (·.icr) .wrLapicIcr .lapicIcr (.lapic 0x300) (.lapic 0x310)
    (fun v =>
      (0#12 ++ shorthandCode v.shorthand ++ 0#2 ++ BitVec.ofBool v.trigger ++ BitVec.ofBool v.level ++
        0#1 ++ BitVec.ofBool v.deliveryStatus ++ BitVec.ofBool v.destMode ++
        icrModeCode v.deliveryMode ++ v.vector : BitVec 32))
    (fun v => (v.destination ++ 0#24 : BitVec 32))

/-- 47_ioapic_ops.md R277; 43_split_sequencer.md R172; layout R121. The destination is in the high word in both
modes (90_conflicts.md C3, log entry 11). -/
def Obligations.RedirWriteRuns : Prop :=
  ∀ n : Fin 120,
    RunsSplitWrite (BitVec.ofNat 16 (0x6010 + 2 * n.val)) (·.redirEntry) (.wrIoapicRedir n)
      (.ioapicRedir n) (.ioapic (BitVec.ofNat 8 (0x10 + 2 * n.val)))
      (.ioapic (BitVec.ofNat 8 (0x11 + 2 * n.val)))
      (fun v =>
        (0#15 ++ BitVec.ofBool v.mask ++ BitVec.ofBool v.trigger ++ BitVec.ofBool v.remoteIrr ++
          BitVec.ofBool v.polarity ++ BitVec.ofBool v.deliveryStatus ++ BitVec.ofBool v.destMode ++
          redirModeCode v.deliveryMode ++ v.vector : BitVec 32))
      (fun v => (v.destination ++ 0#24 : BitVec 32))

/-! ### Every operation -/

/-- What any transition of any operation leaves alone (43_split_sequencer.md R177): the parameters, the
inputs not read, every other context, the current context's port; the history grows by at most one entry,
of the current context. -/
def Obligations.EveryTransitionKeepsToItsContext : Prop :=
  ∀ (i : Instr) (s t : State), exec i s = .next t →
    t.params = s.params ∧ t.ctx = s.ctx ∧ t.agenda = s.agenda ∧
      (∀ c, c ≠ s.ctx → t.contexts[c]? = s.contexts[c]?) ∧
      (∀ k, s.cur? = some k → ∃ k', t.cur? = some k' ∧ k'.port = k.port ∧ k'.hung = k.hung) ∧
      (t.history = s.history ∨ (∃ e, t.history = s.history ++ [.bus e] ∧ e.ctx = s.ctx) ∨
        ∃ r, t.history = s.history ++ [.rsp r] ∧ r.ctx = s.ctx)

/-- 30_encoding.md R60, 60_exceptions.md R307: a faulted instance accepts nothing, nor does one busy with
another request. That the request then waits, the state unchanged, is the model's choice (log entry 9). -/
def Obligations.AnInstanceThatCannotAcceptStays : Prop :=
  ∀ (i : Instr) (s : State) (k : Context), s.cur? = some k →
    (k.inst.phase = .idle ∧ k.inst.fault ≠ none) ∨
      (k.inst.phase = .busy ∧ k.inst.req ≠ some i.request) →
    exec i s = .next s

/-! ### Encoding -/

/-- Decoding the request an operation is offered as gives the operation, with every operand (30_encoding.md
R61, R62, R65). -/
def Obligations.DecodeOfOfferIsTheOperation : Prop :=
  ∀ (p : Params) (i : Instr), i.wf p = true → decode p i.offer = .ok i

/-- `DecodeReq` accepts exactly the words of the registers that exist (30_encoding.md R62). -/
def Obligations.DecodeReqAcceptsExactlyTheIndexedWords : Prop :=
  ∀ (p : Params) (w : Word16) (r : Request),
    decodeReq p w = .ok r ↔ (r.reg.wf p = true ∧ r.encode = w)

/-- Each kind of word that 30_encoding.md R63 lists is refused: reserved spaces, a set bit 12, an offset or
an index that names no register (0x03 to 0x0F in the I/O APIC space), `idx[11:8] != 0`, an entry at or beyond
the count, the high slots. -/
def Obligations.IllegalWordsAreRefused : Prop :=
  ∀ (p : Params) (w : Word16),
    (w.extractLsb' 14 2 = 0b10 ∨ w.extractLsb' 14 2 = 0b11 ∨ w.getLsbD 12 = true ∨
      (w.extractLsb' 14 2 = 0b00 ∧
        ∀ r ∈ lapicRegs, r.slots.low ≠ .lapic (w.extractLsb' 0 12)) ∨
      (w.extractLsb' 14 2 = 0b01 ∧ w.extractLsb' 8 4 ≠ 0) ∨
      (w.extractLsb' 14 2 = 0b01 ∧ 0x03 ≤ (w.extractLsb' 0 12).toNat ∧
        (w.extractLsb' 0 12).toNat ≤ 0x0F) ∨
      (w.extractLsb' 14 2 = 0b01 ∧ p.redirCount ≤ ((w.extractLsb' 0 8).toNat - 0x10) / 2 ∧
        0x10 ≤ (w.extractLsb' 0 8).toNat) ∨
      (w.extractLsb' 14 2 = 0b00 ∧ w.extractLsb' 0 12 = 0x310) ∨
      (w.extractLsb' 14 2 = 0b01 ∧ ∃ n < 120, (w.extractLsb' 0 8).toNat = 0x11 + 2 * n)) →
    ∃ e, decodeReq p w = .error e

/-- A few request words of 30_encoding.md R65 and 95_test_vectors.md V8, written out. -/
def Obligations.PrintedWordsDecode : Prop :=
  decodeTableWord 16 0b0000000000100000 = some .rdLapicId ∧
  decodeTableWord 16 0b0010001100000000 = some (.wrLapicIcr {}) ∧
  decodeTableWord 16 0b0010001111100000 = some (.wrLapicDcr {}) ∧
  decodeTableWord 16 0b0100000000000010 = some .rdIoapicArb ∧
  decodeTableWord 16 0b0110000000111110 = some (.wrIoapicRedir 23 {}) ∧
  decodeTableWord 16 0b0100000001000000 = none ∧
  decodeTableWord 16 0b0000001100010000 = none

/-! ### The step -/

/-- A step of a context that can accept runs the operation decoded from the request at the head of its
port; around `exec` the step takes the stimulus off the agenda, makes its context the current one, and
takes the request off the port. With an empty agenda the current context goes on (log entry 4). -/
def Obligations.StepRunsTheDecodedOperation : Prop :=
  ∀ (s : State) (k : Context) (o : Offer) (rest : List Offer) (i : Instr),
    k.CanAccept → k.port = o :: rest → decode s.params o = .ok i →
    (s.agenda = [] → s.cur? = some k → step s = exec i (s.setCur { k with port := rest })) ∧
    ∀ c more, s.agenda = .run c :: more → s.contexts[c]? = some k →
      step s =
        exec i { s with ctx := c, agenda := more, contexts := s.contexts.set c { k with port := rest } }

/-- A step of a busy context runs the operation whose request it latched, and any operation of that
request would do the same: the value was consumed at Accept (43_split_sequencer.md R177). -/
def Obligations.StepContinuesTheLatchedOperation : Prop :=
  ∀ (s : State) (c : Nat) (more : List Stimulus) (k : Context) (i : Instr),
    s.agenda = .run c :: more → s.contexts[c]? = some k → k.hung = false →
    k.inst.phase = .busy → k.inst.req = some i.request →
    step s = exec i { s with ctx := c, agenda := more }

/-- 60_exceptions.md R305, R307: an illegal word latches `UnknownRegister` and is answered with the word;
no bus event. -/
def Obligations.IllegalWordLatchesUnknownRegister : Prop :=
  ∀ (s : State) (c : Nat) (more : List Stimulus) (k : Context) (o : Offer) (rest : List Offer)
    (e : Illegal),
    s.agenda = .run c :: more → s.contexts[c]? = some k → k.CanAccept → k.port = o :: rest →
    decodeReq s.params o.word = .error e →
    step s = .next
      { s with
        ctx := c
        agenda := more
        contexts := s.contexts.set c { k.latched .unknownRegister with port := rest }
        history := s.history ++ [.rsp ⟨c, .unknownRegister, .word o.word⟩] }

/-- 70_reset_and_hazards.md R330: an idle instance with no request waits. -/
def Obligations.IdleInstanceWaitsForARequest : Prop :=
  ∀ (s : State) (c : Nat) (more : List Stimulus) (k : Context),
    s.agenda = .run c :: more → s.contexts[c]? = some k → k.inst.phase = .idle → k.port = [] →
    step s = .next { s with ctx := c, agenda := more }

/-! ### Reset and errors -/

/-- 10_state.md R31: every instance in its reset state, the bus history empty, for every choice of the OPEN
parameters. -/
def Obligations.ResetLeavesEveryInstanceIdle : Prop :=
  ∀ (p : Params) (n : Nat),
    (State.resetWith p n).params = p ∧ (State.resetWith p n).contexts.length = n ∧
      (State.resetWith p n).history = [] ∧
      ∀ k ∈ (State.resetWith p n).contexts,
        k.inst = { fault := none, phase := .idle, req := none, pending := [], lo := none, hi := none }

/-- 70_reset_and_hazards.md R330: a reset event, whatever is going on, puts every instance in its reset
state and empties the history; an operation in progress gets no response. That it also frees an instance a
backend fault left stuck (`k.hung = false`) is the model's choice (log entry 6). Nothing is said of the
requests on the ports, which the model leaves there by its own choice (log entry 7). -/
def Obligations.ResetEventAbandonsEveryOperation : Prop :=
  ∀ (s : State) (more : List Stimulus), s.agenda = .reset :: more →
    ∃ t, step s = .next t ∧ t.params = s.params ∧ t.history = [] ∧
      t.contexts.length = s.contexts.length ∧
      ∀ k ∈ t.contexts,
        k.inst = { fault := none, phase := .idle, req := none, pending := [], lo := none, hi := none } ∧
          k.hung = false

/-- 60_exceptions.md R307: no step but a reset clears a latched fault or moves a faulted idle instance,
which issues nothing and answers nothing more. That the whole context stays, the requests on its port
waiting unchanged, is the model's choice (log entry 9). -/
def Obligations.FaultLatchIsSticky : Prop :=
  ∀ (s t : State) (c : Nat) (k : Context) (f : FatalCode),
    step s = .next t → s.agenda.head? ≠ some .reset → s.contexts[c]? = some k →
    k.inst.fault = some f →
    (∃ k', t.contexts[c]? = some k' ∧ k'.inst.fault = some f) ∧
      (k.inst.phase = .idle →
        t.contexts[c]? = some k ∧ eventsOf c t.history = eventsOf c s.history ∧
          responsesOf c t.history = responsesOf c s.history)

/-- 60_exceptions.md R309: a fault of RawAccess leaves the instance Busy with the access at the head of
`pending`, with no event, no value and no response, and no step but a reset moves it any more. That the
faulting access is in no event is the model's reading (log entry 6), and that the requests on the port wait
unchanged its choice (log entry 9). -/
def Obligations.BackendFaultLeavesTheInstanceStuck : Prop :=
  (∀ (s : State) (c : Nat) (more : List Stimulus) (k : Context),
    s.agenda = .backendFault c :: more → s.contexts[c]? = some k → k.inst.phase = .busy →
    k.inst.pending ≠ [] →
    step s = .next
      { s with agenda := more, contexts := s.contexts.set c { k with hung := true } }) ∧
  ∀ (s t : State) (c : Nat) (k : Context),
    step s = .next t → s.agenda.head? ≠ some .reset → s.contexts[c]? = some k → k.hung = true →
    t.contexts[c]? = some k ∧ eventsOf c t.history = eventsOf c s.history ∧
      responsesOf c t.history = responsesOf c s.history

/-- 20_memory.md R48, 60_exceptions.md R307, R316: a transition of one context changes nothing of
another's. -/
def Obligations.ATransitionLeavesOtherContextsAlone : Prop :=
  ∀ (s t : State) (c d : Nat) (more : List Stimulus),
    s.agenda = .run c :: more → step s = .next t → d ≠ c →
    t.contexts[d]? = s.contexts[d]? ∧ eventsOf d t.history = eventsOf d s.history ∧
      responsesOf d t.history = responsesOf d s.history

/-- 10_state.md R27, 00_scope.md R8: no step changes a parameter, hence no capability, nor the number of
contexts. -/
def Obligations.ParametersNeverChange : Prop :=
  ∀ s t : State, step s = .next t →
    t.params = s.params ∧ t.contexts.length = s.contexts.length ∧
      ∀ r, capability t.params r = capability s.params r

/-- 20_memory.md R46: every step but a reset keeps the history and appends at most one entry. -/
def Obligations.HistoryOnlyGrowsAtItsEnd : Prop :=
  ∀ s t : State, step s = .next t → s.agenda.head? ≠ some .reset →
    ∃ new, t.history = s.history ++ new ∧ new.length ≤ 1

/-! ### Invariants -/

/-- The reset state meets the invariants, for all parameters in their ranges and any number of contexts
from 1 up. -/
def Obligations.ResetMeetsTheInvariants : Prop :=
  ∀ (p : Params) (n : Nat), p.wf = true → 0 < n →
    (State.resetWith p n).Inv ∧ (State.resetWith p n).WriteOrder ∧ (State.resetWith p n).BusIndexed ∧
      (State.resetWith p n).NoReadOnlyWrite ∧ (State.resetWith p n).ReservedBitsFixed

/-- Every step keeps the invariant of the phase machine (10_state.md R22, R23; 43_split_sequencer.md
R177). -/
def Obligations.EveryStepKeepsTheInvariant : Prop :=
  ∀ s t : State, s.Inv → step s = .next t → t.Inv

/-- From a state with the invariant no step faults or refuses: no latch is read before it is written
(10_state.md R23). -/
def Obligations.NoStepStops : Prop :=
  ∀ s : State, s.Inv → ∃ t, step s = .next t

/-- 43_split_sequencer.md R172, R173; 70_reset_and_hazards.md R333: at every time, in every context's own
events, each write of a wide register's low slot comes right after the write of its high slot. -/
def Obligations.EveryStepKeepsTheWriteOrder : Prop :=
  ∀ s t : State, s.Inv → s.WriteOrder → step s = .next t → t.WriteOrder

/-- 45_register_access.md R203: no write ever reaches a ReadOnly register. -/
def Obligations.NoWriteEverReachesAReadOnlyRegister : Prop :=
  ∀ s t : State, s.Inv → s.NoReadOnlyWrite → step s = .next t → t.NoReadOnlyWrite

/-- 20_memory.md R40, R52: only slots of the register index are ever accessed. -/
def Obligations.OnlyIndexedSlotsAreAccessed : Prop :=
  ∀ s t : State, s.Inv → s.BusIndexed → step s = .next t → t.BusIndexed

/-- 41_bitfield_codec.md R101, 70_reset_and_hazards.md R338, with the masks of 10_state.md R29: the reserved
bits of every word written to the bus are the fixed pattern, zero for every register but the DFR. -/
def Obligations.EveryWrittenWordHasItsReservedBitsFixed : Prop :=
  ∀ s t : State, s.ReservedBitsFixed → step s = .next t → t.ReservedBitsFixed

/-- 70_reset_and_hazards.md R339, 30_encoding.md R66: each transition of a busy instance brings its
operation one transition nearer its end, whatever the other contexts do in between; the last one sends the
one response, the others each issue one bus event. -/
def Obligations.EveryTransitionBringsTheEndNearer : Prop :=
  ∀ (s : State) (c : Nat) (more : List Stimulus) (k : Context),
    s.Inv → s.agenda = .run c :: more → s.contexts[c]? = some k → k.hung = false →
    k.inst.phase = .busy →
    ∃ t k', step s = .next t ∧ t.contexts[c]? = some k' ∧ k'.work + 1 = k.work ∧
      (k'.work = 0 →
        (∃ r, responsesOf c t.history = responsesOf c s.history ++ [r]) ∧
          eventsOf c t.history = eventsOf c s.history) ∧
      (k'.work ≠ 0 →
        responsesOf c t.history = responsesOf c s.history ∧
          ∃ e, eventsOf c t.history = eventsOf c s.history ++ [e])

/-- 70_reset_and_hazards.md R334, 20_memory.md R48: two contexts that have both accepted an ICR write may
issue their four writes in the order of the example of R334: high, the other's high and low, then low. What the
Local APIC makes of it is outside the block (log entry 17). -/
def Obligations.TwoIcrWritesMayInterleaveTheirSlots : Prop :=
  ∀ (s : State) (k₀ k₁ : Context) (h₀ l₀ h₁ l₁ : Word32) (rest : List Context)
    (more : List Stimulus),
    s.contexts = k₀ :: k₁ :: rest →
    k₀.CanAccept → k₁.CanAccept →
    let a₀ := k₀.accepted ⟨.lapicIcr, .write⟩ [.wr (.lapic 0x310) h₀, .wr (.lapic 0x300) l₀]
    let a₁ := k₁.accepted ⟨.lapicIcr, .write⟩ [.wr (.lapic 0x310) h₁, .wr (.lapic 0x300) l₁]
    ∃ t, Host.Core.run core 4
        { s with contexts := a₀ :: a₁ :: rest, agenda := [.run 0, .run 1, .run 1, .run 0] ++ more } =
          .next t ∧
      t.history = s.history ++
        [.bus ⟨0, .write, .lapic 0x310, h₀⟩, .bus ⟨1, .write, .lapic 0x310, h₁⟩,
          .bus ⟨1, .write, .lapic 0x300, l₁⟩, .bus ⟨0, .write, .lapic 0x300, l₀⟩]

/-! ### Codec laws -/

/-- 41_bitfield_codec.md R103, for every layout. -/
def Obligations.DecodeOfEncodeIsTheValue : Prop :=
  (∀ w v, ApicId.wf w v = true → decodeApicId w (encodeApicId w v) = v) ∧
  (∀ w v, ArbId.wf w v = true → decodeArbId w (encodeArbId w v) = v) ∧
  (∀ v, decodeLapicVersion (encodeLapicVersion v) = v) ∧
  (∀ v, decodeIoapicVersion (encodeIoapicVersion v) = v) ∧
  (∀ v, decodeLogicalDest (encodeLogicalDest v) = v) ∧
  (∀ v, decodeDestFormat (encodeDestFormat v) = .ok v) ∧
  (∀ v, decodeSpuriousVector (encodeSpuriousVector v) = v) ∧
  (∀ v, decodeErrorStatus (encodeErrorStatus v) = v) ∧
  (∀ v, decodeLvtTimer (encodeLvtTimer v) = v) ∧
  (∀ v, decodeLvtEntry (encodeLvtEntry v) = v) ∧
  (∀ v, decodeIcr (encodeIcr v) = v) ∧
  (∀ v, decodeRedirEntry (encodeRedirEntry v) = v) ∧
  (∀ v, decodeWord (encodeWord v) = v) ∧
  (∀ v, decodePriority (encodePriority v) = v) ∧
  ∀ v raw, encodeDivisor v = .ok raw → decodeDivisor raw = v

/-- 41_bitfield_codec.md R104 with the masks of 10_state.md R29, for every layout. -/
def Obligations.EncodeOfDecodeKeepsTheFieldsOnly : Prop :=
  (∀ raw, encodeApicId .eight (decodeApicId .eight raw) = raw &&& 0xFF000000) ∧
  (∀ raw, encodeApicId .four (decodeApicId .four raw) = raw &&& 0x0F000000) ∧
  (∀ raw, encodeArbId .eight (decodeArbId .eight raw) = raw &&& 0xFF000000) ∧
  (∀ raw, encodeArbId .four (decodeArbId .four raw) = raw &&& 0x0F000000) ∧
  (∀ raw, encodeLapicVersion (decodeLapicVersion raw) = raw &&& 0x01FF00FF) ∧
  (∀ raw, encodeIoapicVersion (decodeIoapicVersion raw) = raw &&& 0x00FF00FF) ∧
  (∀ raw, encodePriority (decodePriority raw) = raw &&& 0x000000FF) ∧
  (∀ raw, encodeLogicalDest (decodeLogicalDest raw) = raw &&& 0xFF000000) ∧
  (∀ raw v, decodeDestFormat raw = .ok v →
    encodeDestFormat v = (raw &&& 0xF0000000) ||| 0x0FFFFFFF) ∧
  (∀ raw, encodeSpuriousVector (decodeSpuriousVector raw) = raw &&& 0x000013FF) ∧
  (∀ raw, encodeErrorStatus (decodeErrorStatus raw) = raw &&& 0x000000FF) ∧
  (∀ raw, encodeLvtTimer (decodeLvtTimer raw) = raw &&& 0x0007F7FF) ∧
  (∀ raw, encodeLvtEntry (decodeLvtEntry raw) = raw &&& 0x0001F7FF) ∧
  (∀ raw, encodeIcr (decodeIcr raw) = raw &&& 0xFF000000000CDFFF) ∧
  (∀ raw, encodeRedirEntry (decodeRedirEntry raw) = raw &&& 0xFF0000000001FFFF) ∧
  (∀ raw, encodeWord (decodeWord raw) = raw) ∧
  ∀ raw, encodeDivisor (decodeDivisor raw) = .ok (raw &&& 0x0000000B)

/-- 41_bitfield_codec.md R100: words that differ only in reserved bits decode alike. -/
def Obligations.ReservedBitsNeverChangeADecodedValue : Prop :=
  ∀ raw raw' : Word32,
    (raw &&& 0xFF000000 = raw' &&& 0xFF000000 →
      decodeApicId .eight raw = decodeApicId .eight raw' ∧
        decodeArbId .eight raw = decodeArbId .eight raw' ∧
        decodeLogicalDest raw = decodeLogicalDest raw') ∧
    (raw &&& 0x0F000000 = raw' &&& 0x0F000000 →
      decodeApicId .four raw = decodeApicId .four raw' ∧
        decodeArbId .four raw = decodeArbId .four raw') ∧
    (raw &&& 0x01FF00FF = raw' &&& 0x01FF00FF → decodeLapicVersion raw = decodeLapicVersion raw') ∧
    (raw &&& 0x00FF00FF = raw' &&& 0x00FF00FF → decodeIoapicVersion raw = decodeIoapicVersion raw') ∧
    (raw &&& 0x000000FF = raw' &&& 0x000000FF →
      decodePriority raw = decodePriority raw' ∧ decodeErrorStatus raw = decodeErrorStatus raw') ∧
    (raw &&& 0xF0000000 = raw' &&& 0xF0000000 → decodeDestFormat raw = decodeDestFormat raw') ∧
    (raw &&& 0x000013FF = raw' &&& 0x000013FF → decodeSpuriousVector raw = decodeSpuriousVector raw') ∧
    (raw &&& 0x0007F7FF = raw' &&& 0x0007F7FF → decodeLvtTimer raw = decodeLvtTimer raw') ∧
    (raw &&& 0x0001F7FF = raw' &&& 0x0001F7FF → decodeLvtEntry raw = decodeLvtEntry raw') ∧
    (raw &&& 0x0000000B = raw' &&& 0x0000000B → decodeDivisor raw = decodeDivisor raw') ∧
    ∀ wide wide' : Word64,
      (wide &&& 0xFF000000000CDFFF = wide' &&& 0xFF000000000CDFFF → decodeIcr wide = decodeIcr wide') ∧
      (wide &&& 0xFF0000000001FFFF = wide' &&& 0xFF0000000001FFFF →
        decodeRedirEntry wide = decodeRedirEntry wide')

/-- 41_bitfield_codec.md R101: reserved bits are zero in every encoded word, ones in the DFR's. -/
def Obligations.EncodedWordsKeepToTheirMask : Prop :=
  (∀ v, encodeApicId .eight v &&& ~~~0xFF000000 = 0) ∧
  (∀ v, encodeApicId .four v &&& ~~~0x0F000000 = 0) ∧
  (∀ v, encodeArbId .eight v &&& ~~~0xFF000000 = 0) ∧
  (∀ v, encodeArbId .four v &&& ~~~0x0F000000 = 0) ∧
  (∀ v, encodeLapicVersion v &&& ~~~0x01FF00FF = 0) ∧
  (∀ v, encodeIoapicVersion v &&& ~~~0x00FF00FF = 0) ∧
  (∀ v, encodePriority v &&& ~~~0x000000FF = 0) ∧
  (∀ v, encodeLogicalDest v &&& ~~~0xFF000000 = 0) ∧
  (∀ v, encodeDestFormat v &&& ~~~0xF0000000 = 0x0FFFFFFF) ∧
  (∀ v, encodeSpuriousVector v &&& ~~~0x000013FF = 0) ∧
  (∀ v, encodeErrorStatus v &&& ~~~0x000000FF = 0) ∧
  (∀ v, encodeLvtTimer v &&& ~~~0x0007F7FF = 0) ∧
  (∀ v, encodeLvtEntry v &&& ~~~0x0001F7FF = 0) ∧
  (∀ v, encodeIcr v &&& ~~~0xFF000000000CDFFF = 0) ∧
  (∀ v, encodeRedirEntry v &&& ~~~0xFF0000000001FFFF = 0) ∧
  ∀ v raw, encodeDivisor v = .ok raw → raw &&& ~~~0x0000000B = 0

/-- 41_bitfield_codec.md R106 to R109, R118, R120: the code tables, and both directions agree. The spec marks
the code assignments as "from general knowledge, not in source" (log entry 14). -/
def Obligations.DeliveryModeCodesAreBijections : Prop :=
  (List.map lvtModeOfCode [0, 1, 2, 3, 4, 5, 6, 7] =
    [.fixed, .reserved1, .smi, .reserved3, .nmi, .init, .reserved6, .extInt]) ∧
  (List.map icrModeOfCode [0, 1, 2, 3, 4, 5, 6, 7] =
    [.fixed, .lowestPriority, .smi, .reserved3, .nmi, .init, .startUp, .reserved7]) ∧
  (List.map redirModeOfCode [0, 1, 2, 3, 4, 5, 6, 7] =
    [.fixed, .lowestPriority, .smi, .reserved3, .nmi, .init, .reserved6, .extInt]) ∧
  (List.map timerModeOfCode [0, 1, 2, 3] = [.oneShot, .periodic, .tscDeadline, .reserved3]) ∧
  (List.map shorthandOfCode [0, 1, 2, 3] =
    [.noShorthand, .self, .allIncludingSelf, .allExcludingSelf]) ∧
  (∀ c, lvtModeCode (lvtModeOfCode c) = c ∧ icrModeCode (icrModeOfCode c) = c ∧
    redirModeCode (redirModeOfCode c) = c) ∧
  (∀ c, timerModeCode (timerModeOfCode c) = c ∧ shorthandCode (shorthandOfCode c) = c) ∧
  (∀ m, lvtModeOfCode (lvtModeCode m) = m) ∧ (∀ m, icrModeOfCode (icrModeCode m) = m) ∧
  (∀ m, redirModeOfCode (redirModeCode m) = m) ∧ (∀ m, timerModeOfCode (timerModeCode m) = m) ∧
  ∀ m, shorthandOfCode (shorthandCode m) = m

/-- 42_scattered_divisor.md R150 to R153: the rotate form agrees with the table on every word, and exactly
the eight divisors encode. -/
def Obligations.DivisorCodecMatchesItsTable : Prop :=
  (∀ raw : Word32, ∃ row ∈ divisorTable,
    row.2 = raw &&& 0xB ∧ decodeDivisor raw = { divisor := row.1 }) ∧
  (∀ row ∈ divisorTable, encodeDivisor { divisor := row.1 } = .ok row.2) ∧
  (∀ d : Word32, d ∉ ([1, 2, 4, 8, 16, 32, 64, 128] : List Word32) →
    encodeDivisor { divisor := d } = .error (.invalidDivisor d)) ∧
  (∀ c, gather (scatter c) = c) ∧ ∀ raw, scatter (gather raw) = raw &&& 0xB

/-- 44_priority_field.md R193, with the fields of a byte (R191). The last clause, the builder on arguments of
any two widths, rests on the model's choice for R190 (log entry 20). -/
def Obligations.PriorityByteRoundTrips : Prop :=
  (∀ b, encodePrio (decodePrio b) = b) ∧ (∀ p, decodePrio (encodePrio p) = p) ∧
  (∀ b, (decodePrio b).cls.toNat = b.toNat / 16 ∧ (decodePrio b).subClass.toNat = b.toNat % 16) ∧
  ∀ (m n : Nat) (c : BitVec m) (s : BitVec n),
    (mkPriority c s).cls.toNat = c.toNat % 16 ∧ (mkPriority c s).subClass.toNat = s.toNat % 16

/-- 41_bitfield_codec.md R124. -/
def Obligations.SlotsJoinAndSplit : Prop :=
  (∀ low high : Word32, (join low high).toNat = high.toNat * 2 ^ 32 + low.toNat) ∧
  (∀ v : Word64, join (lowOf v) (highOf v) = v) ∧
  ∀ low high : Word32, lowOf (join low high) = low ∧ highOf (join low high) = high

/-- 45_register_access.md R203, R204; 60_exceptions.md R300, R303, R304: the capability check and the
numbers of its results. -/
def Obligations.CapabilityCheckAndResultNumbers : Prop :=
  (∀ cap dir f, capCheck cap dir = some f ↔
    (dir = .write ∧ cap = .readOnly ∧ f = .readOnlyViolation) ∨
      (dir = .read ∧ cap = .writeOnly ∧ f = .writeOnlyViolation)) ∧
  (∀ p reg, capability p reg = .readOnly ↔
    reg ∈ ([.lapicVer, .lapicPpr, .lapicTmrCur, .ioapicVer, .ioapicArb] : List Reg) ∨
      (reg = .lapicApr ∧ p.aprCapability = .readOnly)) ∧
  (∀ p reg, capability p reg ≠ .writeOnly) ∧
  List.map resultNumber [.ok, .invalidEncoding, .invalidDivisor, .readOnlyViolation,
    .writeOnlyViolation, .unknownRegister] = [0, 1, 2, 3, 4, 5]

/-- 10_state.md R28: any word can answer a bus read. That the words come from `readData`, and from a free
value when it is empty, is the model's choice (log entry 3). -/
def Obligations.AnyWordCanAnswerABusRead : Prop :=
  ∀ (s : State) (d : Word32),
    ({ s with readData := d :: s.readData } : State).readWord = d ∧
      ({ s with readData := d :: s.readData } : State).afterRead = s ∧
      ({ s with readData := [] } : State).readWord = Config.busDraw s.draws
end

