-- ==== Sys2Proof/Laws/Codec.lean ====
section
/-!
SUPPORT. The field primitives bit by bit (41_bitfield_codec.md R105), and the slots of a 64-bit value (R124).
-/

namespace Sys2Proof.Machine

/-- Bit `i` of a field is bit `lo + i` of the word. -/
theorem getLsbD_getField {n : Nat} (raw : BitVec n) (lo k i : Nat) :
    (getField raw lo k).getLsbD i = (decide (i < k) && raw.getLsbD (lo + i)) := by
  simp [getField]

/-- Bit `i` of a placed field is bit `i - lo` of the value. -/
theorem getLsbD_putField {n k : Nat} (x : BitVec k) (lo i : Nat) (hi : i < n) :
    (putField n x lo).getLsbD i = (decide (lo ≤ i) && x.getLsbD (i - lo)) := by
  simp only [putField, BitVec.getLsbD_shiftLeft, hi, decide_true, Bool.true_and,
    BitVec.getLsbD_setWidth, show i - lo < n by omega]
  by_cases h : lo ≤ i
  · simp [h, Nat.not_lt.mpr h]
  · simp [h, Nat.not_le.mp h]

/-- A placed flag is that one bit. -/
theorem getLsbD_putFlag {n : Nat} (b : Bool) (j i : Nat) (hi : i < n) :
    (putFlag n b j).getLsbD i = (b && decide (i = j)) := by
  cases b
  · simp [putFlag]
  · simp only [putFlag, if_true, BitVec.getLsbD_shiftLeft, hi, decide_true, Bool.true_and]
    by_cases h : i < j
    · simp [h, Nat.ne_of_lt h]
    · have : i - j = 0 ↔ i = j := by omega
      simp [h, this, show 0 < n by omega]

/-- Bit `i` of the low slot. -/
theorem getLsbD_lowOf (v : Word64) (i : Nat) : (lowOf v).getLsbD i = (decide (i < 32) && v.getLsbD i) := by
  simp [lowOf]

/-- Bit `i` of the high slot. -/
theorem getLsbD_highOf (v : Word64) (i : Nat) :
    (highOf v).getLsbD i = (decide (i < 32) && v.getLsbD (32 + i)) := by
  simp [highOf]

end Sys2Proof.Machine
end

