-- ==== Sys2Proof/Laws/State.lean ====
section
/-!
SUPPORT. One lemma per field per update of State, true by rfl, and the lemmas of the current context.
-/

namespace Sys2Proof.Machine

/-! ### setCur -/

@[simp] theorem State.setCur_params (s : State) (k : Context) : (s.setCur k).params = s.params := rfl
@[simp] theorem State.setCur_history (s : State) (k : Context) : (s.setCur k).history = s.history := rfl
@[simp] theorem State.setCur_ctx (s : State) (k : Context) : (s.setCur k).ctx = s.ctx := rfl
@[simp] theorem State.setCur_agenda (s : State) (k : Context) : (s.setCur k).agenda = s.agenda := rfl
@[simp] theorem State.setCur_readData (s : State) (k : Context) : (s.setCur k).readData = s.readData := rfl
@[simp] theorem State.setCur_draws (s : State) (k : Context) : (s.setCur k).draws = s.draws := rfl
@[simp] theorem State.setCur_contexts (s : State) (k : Context) :
    (s.setCur k).contexts = s.contexts.set s.ctx k := rfl
@[simp] theorem State.setCur_readWord (s : State) (k : Context) : (s.setCur k).readWord = s.readWord := rfl

/-! ### log and respond -/

@[simp] theorem State.log_params (s : State) (e : Entry) : (s.log e).params = s.params := rfl
@[simp] theorem State.log_history (s : State) (e : Entry) : (s.log e).history = s.history ++ [e] := rfl
@[simp] theorem State.log_ctx (s : State) (e : Entry) : (s.log e).ctx = s.ctx := rfl
@[simp] theorem State.log_agenda (s : State) (e : Entry) : (s.log e).agenda = s.agenda := rfl
@[simp] theorem State.log_readData (s : State) (e : Entry) : (s.log e).readData = s.readData := rfl
@[simp] theorem State.log_draws (s : State) (e : Entry) : (s.log e).draws = s.draws := rfl
@[simp] theorem State.log_contexts (s : State) (e : Entry) : (s.log e).contexts = s.contexts := rfl

@[simp] theorem State.respond_params (s : State) (c : ResultCode) (p : Payload) :
    (s.respond c p).params = s.params := rfl
@[simp] theorem State.respond_history (s : State) (c : ResultCode) (p : Payload) :
    (s.respond c p).history = s.history ++ [.rsp ⟨s.ctx, c, p⟩] := rfl
@[simp] theorem State.respond_ctx (s : State) (c : ResultCode) (p : Payload) :
    (s.respond c p).ctx = s.ctx := rfl
@[simp] theorem State.respond_agenda (s : State) (c : ResultCode) (p : Payload) :
    (s.respond c p).agenda = s.agenda := rfl
@[simp] theorem State.respond_readData (s : State) (c : ResultCode) (p : Payload) :
    (s.respond c p).readData = s.readData := rfl
@[simp] theorem State.respond_draws (s : State) (c : ResultCode) (p : Payload) :
    (s.respond c p).draws = s.draws := rfl
@[simp] theorem State.respond_contexts (s : State) (c : ResultCode) (p : Payload) :
    (s.respond c p).contexts = s.contexts := rfl

/-! ### afterRead -/

@[simp] theorem State.afterRead_params (s : State) : s.afterRead.params = s.params := by
  unfold State.afterRead; split <;> rfl
@[simp] theorem State.afterRead_history (s : State) : s.afterRead.history = s.history := by
  unfold State.afterRead; split <;> rfl
@[simp] theorem State.afterRead_ctx (s : State) : s.afterRead.ctx = s.ctx := by
  unfold State.afterRead; split <;> rfl
@[simp] theorem State.afterRead_agenda (s : State) : s.afterRead.agenda = s.agenda := by
  unfold State.afterRead; split <;> rfl
@[simp] theorem State.afterRead_contexts (s : State) : s.afterRead.contexts = s.contexts := by
  unfold State.afterRead; split <;> rfl

/-! ### takeReset -/

@[simp] theorem takeReset_params (s : State) : (takeReset s).params = s.params := rfl
@[simp] theorem takeReset_history (s : State) : (takeReset s).history = [] := rfl
@[simp] theorem takeReset_ctx (s : State) : (takeReset s).ctx = s.ctx := rfl
@[simp] theorem takeReset_agenda (s : State) : (takeReset s).agenda = s.agenda := rfl
@[simp] theorem takeReset_readData (s : State) : (takeReset s).readData = s.readData := rfl
@[simp] theorem takeReset_draws (s : State) : (takeReset s).draws = s.draws := rfl
@[simp] theorem takeReset_contexts (s : State) :
    (takeReset s).contexts = s.contexts.map (fun k => { k with inst := {}, hung := false }) := rfl

/-! ### The current context -/

/-- A current context is in range. -/
theorem State.cur?_lt {s : State} {k : Context} (h : s.cur? = some k) : s.ctx < s.contexts.length :=
  (List.getElem?_eq_some_iff.mp h).1

/-- The current context is one of the contexts. -/
theorem State.cur?_mem {s : State} {k : Context} (h : s.cur? = some k) : k ∈ s.contexts :=
  List.mem_of_getElem? h

/-- What was put there is there. -/
theorem State.cur?_setCur {s : State} {k : Context} (h : s.cur? = some k) (k' : Context) :
    (s.setCur k').cur? = some k' := by
  simp [State.cur?, State.setCur, State.cur?_lt h]

/-- Only the last of two replacements counts. -/
@[simp] theorem State.setCur_setCur (s : State) (k k' : Context) :
    (s.setCur k).setCur k' = s.setCur k' := by
  simp [State.setCur]

/-- Putting back what is there changes nothing. -/
theorem State.setCur_self {s : State} {k : Context} (h : s.cur? = some k) : s.setCur k = s := by
  have : s.contexts.set s.ctx k = s.contexts := by
    apply List.ext_getElem?
    intro i
    rw [List.getElem?_set]
    split
    · next e => subst e; exact ((List.getElem?_eq_some_iff.mp h).choose_spec ▸ by simp [State.cur?_lt h])
    · rfl
  simp [State.setCur, this]

/-- Any other context is as it was. -/
theorem State.setCur_other (s : State) (k : Context) {c : Nat} (h : c ≠ s.ctx) :
    (s.setCur k).contexts[c]? = s.contexts[c]? := by
  simp [State.setCur, Ne.symm h]

@[simp] theorem State.log_cur? (s : State) (e : Entry) : (s.log e).cur? = s.cur? := rfl
@[simp] theorem State.respond_cur? (s : State) (c : ResultCode) (p : Payload) :
    (s.respond c p).cur? = s.cur? := rfl
@[simp] theorem State.afterRead_cur? (s : State) : s.afterRead.cur? = s.cur? := by
  simp [State.cur?]

/-- A log entry made before a replacement of the current context may be made after it. -/
@[simp] theorem State.log_setCur (s : State) (e : Entry) (k : Context) :
    (s.log e).setCur k = (s.setCur k).log e := rfl

end Sys2Proof.Machine
end

