-- ==== Sys2Proof/Laws/Ops.lean ====
section
/-!
SUPPORT. One lemma per shared operation: what it answers, for the provers to cite instead of unfolding it.
-/

namespace Sys2Proof.Machine

/-! ### Slots -/

/-- The two slots of a wide register differ (43_split_sequencer.md R170). -/
theorem low_ne_high {r : Reg} {h : Addr} (hh : r.slots.high = some h) : r.slots.low ≠ h := by
  cases r with
  | ioapicRedir n =>
    intro e
    simp only [Reg.slots, Option.some.injEq] at hh
    rw [← hh] at e
    simp only [Reg.slots, Addr.ioapic.injEq] at e
    have := congrArg BitVec.toNat e
    simp only [BitVec.toNat_ofNat] at this
    omega
  | lapicIcr => simp only [Reg.slots, Option.some.injEq] at hh ⊢; subst hh; decide
  | _ => simp [Reg.slots] at hh

/-! ### Capability -/

/-- Every read passes the capability check: no register is WriteOnly (10_state.md R27). -/
theorem capCheck_read (p : Params) (r : Reg) : capCheck (capability p r) .read = none := by
  cases r <;> first | rfl | (simp only [capability]; cases p.aprCapability <;> rfl)

/-- The check passes, or it is a write of a ReadOnly register. -/
theorem capCheck_cases (cap : Capability) (dir : Dir) :
    capCheck cap dir = none ∨
      (cap = .readOnly ∧ dir = .write ∧ capCheck cap dir = some .readOnlyViolation) ∨
      (cap = .writeOnly ∧ dir = .read ∧ capCheck cap dir = some .writeOnlyViolation) := by
  cases cap <;> cases dir <;> simp [capCheck]

/-! ### Transitions of the phase machine -/

/-- Accept, when nothing forbids it. -/
theorem accept_of_ok {r : Request} {l : List BusOp} {k : Context} {s : State}
    (h : capCheck (capability s.params r.reg) r.dir = none) :
    accept r (.ok l) k s = s.setCur (k.accepted r l) := by
  simp [accept, h, Context.accepted]

/-- Everything Accept can do (43_split_sequencer.md R177 (1)). -/
theorem accept_cases (r : Request) (ops : Except OpError (List BusOp)) (k : Context) (s : State) :
    (∃ l, ops = .ok l ∧ capCheck (capability s.params r.reg) r.dir = none ∧
        accept r ops k s = s.setCur (k.accepted r l)) ∨
      (∃ e, ops = .error e ∧ capCheck (capability s.params r.reg) r.dir = none ∧
        accept r ops k s = s.respond (errorResult e) (.error e)) ∨
      ∃ f, capCheck (capability s.params r.reg) r.dir = some f ∧
        accept r ops k s = (s.setCur (k.latched f)).respond (fatalResult f) (.register r.reg) := by
  unfold accept
  split
  · next f h => exact .inr (.inr ⟨f, h, rfl⟩)
  · next h =>
    cases ops with
    | error e => exact .inr (.inl ⟨e, rfl, h, rfl⟩)
    | ok l => exact .inl ⟨l, rfl, h, rfl⟩

/-- The instance after the issue of `op` (43_split_sequencer.md R177 (2)). -/
def Instance.issued (x : Instance) (r : Request) (op : BusOp) (rest : List BusOp) (d : Word32) :
    Instance :=
  match op with
  | .rd a =>
    if r.reg.slots.high = some a then { x with hi := some d, pending := rest }
    else { x with lo := some d, pending := rest }
  | .wr _ _ => { x with pending := rest }

/-- The bus event of `op` by context `c` (20_memory.md R46). -/
def BusOp.event (c : Nat) (d : Word32) : BusOp → BusEvent
  | .rd a => ⟨c, .read, a, d⟩
  | .wr a w => ⟨c, .write, a, w⟩

/-- Everything Issue does: the instance, the inputs consumed by a read, and one bus event. -/
theorem issue_eq (r : Request) (op : BusOp) (rest : List BusOp) (k : Context) (s : State) :
    issue r op rest k s =
      ((match op with
        | .rd _ => s.afterRead
        | .wr _ _ => s).setCur { k with inst := k.inst.issued r op rest s.readWord }).log
        (.bus (op.event s.ctx s.readWord)) := by
  cases op <;> rfl

/-- The code and payload of a result (30_encoding.md R66). -/
def resultResponse : OpResult → ResultCode × Payload
  | .ok (some v) => (.ok, .value v)
  | .ok none => (.ok, .empty)
  | .error e => (errorResult e, .error e)

/-- Everything Complete does: the latches empty, the phase Idle, one response. -/
theorem complete_eq (res : OpResult) (k : Context) (s : State) :
    complete res k s =
      (s.setCur
        { k with inst := { k.inst with req := none, lo := none, hi := none, phase := .idle } }).respond
          (resultResponse res).1 (resultResponse res).2 := by
  rcases res with e | (_ | v) <;> rfl

/-- A transition of an idle, unfaulted instance is Accept. -/
theorem operate_idle {r : Request} {ops : Except OpError (List BusOp)}
    {fin : Instance → Except Fault OpResult} {s : State} {k : Context}
    (hc : s.cur? = some k) (ha : k.CanAccept) : operate r ops fin s = .next (accept r ops k s) := by
  simp [operate, hc, ha.1, ha.2.1, ha.2.2]

/-- A transition of an instance busy with the request, an access pending, is Issue. -/
theorem operate_issue {r : Request} {ops : Except OpError (List BusOp)}
    {fin : Instance → Except Fault OpResult} {s : State} {k : Context} {op : BusOp}
    {rest : List BusOp} (hc : s.cur? = some k) (hh : k.hung = false) (hp : k.inst.phase = .busy)
    (hr : k.inst.req = some r) (ho : k.inst.pending = op :: rest) :
    operate r ops fin s = .next (issue r op rest k s) := by
  simp [operate, hc, hh, hp, hr, ho]

/-- A transition of an instance busy with the request, nothing pending, is Complete. -/
theorem operate_complete {r : Request} {ops : Except OpError (List BusOp)}
    {fin : Instance → Except Fault OpResult} {s : State} {k : Context} {res : OpResult}
    (hc : s.cur? = some k) (hh : k.hung = false) (hp : k.inst.phase = .busy)
    (hr : k.inst.req = some r) (ho : k.inst.pending = []) (hf : fin k.inst = .ok res) :
    operate r ops fin s = .next (complete res k s) := by
  simp [operate, hc, hh, hp, hr, ho, hf]

/-- A hung instance does not move. -/
theorem operate_hung {r : Request} {ops : Except OpError (List BusOp)}
    {fin : Instance → Except Fault OpResult} {s : State} {k : Context}
    (hc : s.cur? = some k) (hh : k.hung = true) : operate r ops fin s = .next s := by
  simp [operate, hc, hh]

/-- Everything a transition of an operation can do when it answers a next state. -/
theorem operate_cases {r : Request} {ops : Except OpError (List BusOp)}
    {fin : Instance → Except Fault OpResult} {s t : State} (h : operate r ops fin s = .next t) :
    ∃ k, s.cur? = some k ∧
      (t = s ∨
        (k.hung = false ∧ k.inst.phase = .idle ∧ k.inst.fault = none ∧ t = accept r ops k s) ∨
        (k.hung = false ∧ k.inst.phase = .busy ∧ k.inst.req = some r ∧
          ((∃ op rest, k.inst.pending = op :: rest ∧ t = issue r op rest k s) ∨
            ∃ res, k.inst.pending = [] ∧ fin k.inst = .ok res ∧ t = complete res k s))) := by
  unfold operate at h
  split at h
  · cases h
  · next k hc =>
    refine ⟨k, hc, ?_⟩
    split at h
    · cases h; exact .inl rfl
    · next hh =>
      have hh : k.hung = false := by simpa using hh
      split at h
      · next hp =>
        split at h
        · next hf => cases h; exact .inr (.inl ⟨hh, hp, hf, rfl⟩)
        · cases h; exact .inl rfl
      · next hp =>
        split at h
        · next hr =>
          split at h
          · next op rest ho => cases h; exact .inr (.inr ⟨hh, hp, hr, .inl ⟨op, rest, ho, rfl⟩⟩)
          · next ho =>
            split at h
            · cases h
            · next res hf => cases h; exact .inr (.inr ⟨hh, hp, hr, .inr ⟨res, ho, hf, rfl⟩⟩)
        · cases h; exact .inl rfl

/-- A fault of RawAccess sticks the instance that has an access in flight, and does nothing else. -/
theorem backendFault_cases {c : Nat} {s t : State} (h : backendFault c s = .next t) :
    ∃ k, s.contexts[c]? = some k ∧
      (t = s ∨ (k.inst.phase = .busy ∧ k.inst.pending ≠ [] ∧
        t = { s with contexts := s.contexts.set c { k with hung := true } })) := by
  unfold backendFault at h
  split at h
  · cases h
  · next k hk =>
    refine ⟨k, hk, ?_⟩
    split at h
    · next hb => cases h; exact .inr ⟨hb.1, hb.2, rfl⟩
    · cases h; exact .inl rfl

/-! ### exec is a transition of its request -/

/-- The accesses of a read are its targets. -/
theorem readOps_targets (p : Params) (r : Reg) :
    (readOps p.splitReadOrder r.slots).map BusOp.target = targets p ⟨r, .read⟩ := by
  unfold readOps targets
  cases r.slots.high <;> cases p.splitReadOrder <;> rfl

/-- The accesses of a wide write are its targets. -/
theorem writeOps64_targets (p : Params) (r : Reg) (raw : Word64) :
    (writeOps64 r.slots raw).map BusOp.target = targets p ⟨r, .write⟩ := by
  unfold writeOps64 targets
  cases r.slots.high <;> rfl

/-- A 32-bit read with its latch filled has a result. -/
theorem finishRead32_ok (dec : Word32 → Except OpError Value) {x : Instance} (h : x.lo.isSome = true) :
    ∃ res, finishRead32 dec x = .ok res := by
  obtain ⟨lo, hlo⟩ := Option.isSome_iff_exists.mp h
  exact ⟨_, by simp only [finishRead32, hlo]; rfl⟩

/-- A wide read with both latches filled has a result. -/
theorem finishRead64_ok (dec : Word64 → Value) {x : Instance} (h : x.lo.isSome = true)
    (h' : x.hi.isSome = true) : ∃ res, finishRead64 dec x = .ok res := by
  obtain ⟨lo, hlo⟩ := Option.isSome_iff_exists.mp h
  obtain ⟨hi, hhi⟩ := Option.isSome_iff_exists.mp h'
  exact ⟨_, by simp only [finishRead64, hlo, hhi]; rfl⟩

/-- The operation `i` is a transition of its request: its accesses, where Accept lists any, are the
targets of the request, and with the latches of a read filled its result is there. -/
theorem exec_operates (i : Instr) (s : State) :
    ∃ (ops : Except OpError (List BusOp)) (fin : Instance → Except Fault OpResult),
      exec i s = operate i.request ops fin s ∧
      (∀ l, ops = .ok l → l.map BusOp.target = targets s.params i.request) ∧
      ∀ x : Instance,
        (i.request.dir = .read →
          x.lo.isSome = true ∧ (i.request.reg.slots.high.isSome = true → x.hi.isSome = true)) →
        ∃ res, fin x = .ok res := by
  cases i
  case rdLapicIcr =>
    exact ⟨_, _, rfl, fun l h => by cases h; exact readOps_targets _ _,
      fun x h => finishRead64_ok _ (h rfl).1 ((h rfl).2 rfl)⟩
  case rdIoapicRedir n =>
    exact ⟨_, _, rfl, fun l h => by cases h; exact readOps_targets _ _,
      fun x h => finishRead64_ok _ (h rfl).1 ((h rfl).2 rfl)⟩
  case wrLapicIcr v =>
    exact ⟨_, _, rfl, fun l h => by cases h; exact writeOps64_targets _ _ _, fun x _ => ⟨_, rfl⟩⟩
  case wrIoapicRedir n v =>
    exact ⟨_, _, rfl, fun l h => by cases h; exact writeOps64_targets _ _ _, fun x _ => ⟨_, rfl⟩⟩
  case wrLapicDcr v =>
    refine ⟨_, _, rfl, fun l h => ?_, fun x _ => ⟨_, rfl⟩⟩
    cases hv : encodeDivisor v with
    | error e => rw [hv] at h; cases h
    | ok raw => rw [hv] at h; cases h; rfl
  all_goals first
    | exact ⟨_, _, rfl, fun l h => by cases h; exact readOps_targets _ _,
        fun x h => finishRead32_ok _ (h rfl).1⟩
    | exact ⟨_, _, rfl, fun l h => by cases h; rfl, fun x _ => ⟨_, rfl⟩⟩

/-- The operation of a request has that request. -/
theorem ofRequest_request (r : Request) (v : ValuePort) : (Instr.ofRequest r v).request = r := by
  obtain ⟨reg, dir⟩ := r
  cases reg <;> cases dir <;> rfl

/-- Once the request is latched the bus accesses Accept would list no longer matter. -/
theorem operate_busy_ops {r : Request} {ops ops' : Except OpError (List BusOp)}
    {fin : Instance → Except Fault OpResult} {s : State} {k : Context} (hc : s.cur? = some k)
    (hp : k.inst.phase = .busy) : operate r ops fin s = operate r ops' fin s := by
  simp [operate, hc, hp]

/-- In phase Busy an operation does what any operation of its request does: the value was consumed at
Accept (43_split_sequencer.md R177). -/
theorem exec_busy_eq {i : Instr} {s : State} {k : Context} (hc : s.cur? = some k)
    (hp : k.inst.phase = .busy) (v : ValuePort) : exec i s = exec (Instr.ofRequest i.request v) s := by
  have w32 : ∀ reg raw raw', writeOp32 reg raw s = writeOp32 reg raw' s :=
    fun _ _ _ => operate_busy_ops hc hp
  have w64 : ∀ reg raw raw', writeOp64 reg raw s = writeOp64 reg raw' s :=
    fun _ _ _ => operate_busy_ops hc hp
  cases i <;> first
    | exact w32 _ _ _
    | exact w64 _ _ _
    | rfl

end Sys2Proof.Machine
end

