-- ==== Sys2Proof/Laws/PerInstr.lean ====
section
/-!
SUPPORT. The per-instruction family `Rebuild`: every operation is the one its own request and value select
(30_encoding.md R60, R62).
-/

namespace Sys2Proof.Laws.Rebuild

/-- The request of `i` and the value it offers select `i` again. -/
def Statement (i : Instr) : Prop := Instr.ofRequest i.request i.value = i

theorem rdLapicId : Statement .rdLapicId := rfl
theorem wrLapicId (v : ApicId) : Statement (.wrLapicId v) := rfl
theorem rdLapicVer : Statement .rdLapicVer := rfl
theorem wrLapicVer (v : LapicVersion) : Statement (.wrLapicVer v) := rfl
theorem rdLapicTpr : Statement .rdLapicTpr := rfl
theorem wrLapicTpr (v : Priority) : Statement (.wrLapicTpr v) := rfl
theorem rdLapicApr : Statement .rdLapicApr := rfl
theorem wrLapicApr (v : Priority) : Statement (.wrLapicApr v) := rfl
theorem rdLapicPpr : Statement .rdLapicPpr := rfl
theorem wrLapicPpr (v : Priority) : Statement (.wrLapicPpr v) := rfl
theorem rdLapicEoi : Statement .rdLapicEoi := rfl
theorem wrLapicEoi (v : Word32) : Statement (.wrLapicEoi v) := rfl
theorem rdLapicLdr : Statement .rdLapicLdr := rfl
theorem wrLapicLdr (v : LogicalDest) : Statement (.wrLapicLdr v) := rfl
theorem rdLapicDfr : Statement .rdLapicDfr := rfl
theorem wrLapicDfr (v : DestFormat) : Statement (.wrLapicDfr v) := rfl
theorem rdLapicSvr : Statement .rdLapicSvr := rfl
theorem wrLapicSvr (v : SpuriousVector) : Statement (.wrLapicSvr v) := rfl
theorem rdLapicEsr : Statement .rdLapicEsr := rfl
theorem wrLapicEsr (v : ErrorStatus) : Statement (.wrLapicEsr v) := rfl
theorem rdLapicLvtCmci : Statement .rdLapicLvtCmci := rfl
theorem wrLapicLvtCmci (v : LvtEntry) : Statement (.wrLapicLvtCmci v) := rfl
theorem rdLapicIcr : Statement .rdLapicIcr := rfl
theorem wrLapicIcr (v : Icr) : Statement (.wrLapicIcr v) := rfl
theorem rdLapicLvtTimer : Statement .rdLapicLvtTimer := rfl
theorem wrLapicLvtTimer (v : LvtTimer) : Statement (.wrLapicLvtTimer v) := rfl
theorem rdLapicLvtThermal : Statement .rdLapicLvtThermal := rfl
theorem wrLapicLvtThermal (v : LvtEntry) : Statement (.wrLapicLvtThermal v) := rfl
theorem rdLapicLvtPerf : Statement .rdLapicLvtPerf := rfl
theorem wrLapicLvtPerf (v : LvtEntry) : Statement (.wrLapicLvtPerf v) := rfl
theorem rdLapicLvtLint0 : Statement .rdLapicLvtLint0 := rfl
theorem wrLapicLvtLint0 (v : LvtEntry) : Statement (.wrLapicLvtLint0 v) := rfl
theorem rdLapicLvtLint1 : Statement .rdLapicLvtLint1 := rfl
theorem wrLapicLvtLint1 (v : LvtEntry) : Statement (.wrLapicLvtLint1 v) := rfl
theorem rdLapicLvtError : Statement .rdLapicLvtError := rfl
theorem wrLapicLvtError (v : LvtEntry) : Statement (.wrLapicLvtError v) := rfl
theorem rdLapicTmrInit : Statement .rdLapicTmrInit := rfl
theorem wrLapicTmrInit (v : Word32) : Statement (.wrLapicTmrInit v) := rfl
theorem rdLapicTmrCur : Statement .rdLapicTmrCur := rfl
theorem wrLapicTmrCur (v : Word32) : Statement (.wrLapicTmrCur v) := rfl
theorem rdLapicDcr : Statement .rdLapicDcr := rfl
theorem wrLapicDcr (v : Divisor) : Statement (.wrLapicDcr v) := rfl
theorem rdIoapicId : Statement .rdIoapicId := rfl
theorem wrIoapicId (v : ApicId) : Statement (.wrIoapicId v) := rfl
theorem rdIoapicVer : Statement .rdIoapicVer := rfl
theorem wrIoapicVer (v : IoapicVersion) : Statement (.wrIoapicVer v) := rfl
theorem rdIoapicArb : Statement .rdIoapicArb := rfl
theorem wrIoapicArb (v : ArbId) : Statement (.wrIoapicArb v) := rfl
theorem rdIoapicRedir (n : Fin 120) : Statement (.rdIoapicRedir n) := rfl
theorem wrIoapicRedir (n : Fin 120) (v : RedirEntry) : Statement (.wrIoapicRedir n v) := rfl

end Sys2Proof.Laws.Rebuild
end

