-- ==== Sys2Proof/Laws/Runs.lean ====
section
/-!
SUPPORT. The shared operations `readOp32`, `readOp64`, `writeOp32`, `writeOp64` from Accept to the response:
one lemma each, so that a meaning is compared with its layout and nothing of the phase machine is unfolded.
-/

namespace Sys2Proof.Machine

/-- A context replaced before a bus read is replaced after it. -/
theorem State.afterRead_setCur_comm (s : State) (k : Context) :
    (s.setCur k).afterRead = s.afterRead.setCur k := by
  unfold State.afterRead State.setCur; cases s.readData <;> rfl

/-- A bus read does not look at the history. -/
theorem State.afterRead_with_history (s : State) (h : List Entry) :
    ({ s with history := h } : State).afterRead = { s.afterRead with history := h } := by
  unfold State.afterRead; cases s.readData <;> rfl

/-- With an access in flight, a fault of RawAccess sticks the instance. -/
theorem stuckOnBackendFault_of_busy {i : Instr} {s : State} {k : Context} (hc : s.cur? = some k)
    (hp : k.inst.phase = .busy) (ho : k.inst.pending ≠ []) : StuckOnBackendFault i s k := by
  constructor
  · have : s.contexts[s.ctx]? = some k := hc
    simp [backendFault, this, hp, ho, State.setCur]
  · obtain ⟨ops, fin, h, -⟩ := exec_operates i (s.setCur { k with hung := true })
    rw [h]
    exact operate_hung (State.cur?_setCur hc _) rfl

/-- A meaning that is `readOp32` runs the read of its slot. -/
theorem runsRead_of_readOp32 {w : Word16} {i : Instr} {reg : Reg} {a : Addr}
    {result : Params → Word32 → ResultCode × Payload} (dec : Params → Word32 → Except OpError Value)
    (hw : ∀ p v, decode p ⟨w, v⟩ = .ok i) (hi : ∀ s, exec i s = readOp32 reg (dec s.params) s)
    (hs : reg.slots = { low := a })
    (hr : ∀ p d, resultResponse ((dec p d).map some) = result p d) : RunsRead w i reg a result := by
  refine ⟨hw, fun s k hc ha => ?_⟩
  intro d ev k₁ s₁ k₂ s₂ s₃
  have hc₁ : s₁.cur? = some k₁ := State.cur?_setCur hc _
  have hc₂ : s₂.cur? = some k₂ :=
    State.cur?_setCur (s := s.afterRead) (k := k) (by simpa using hc) k₂
  refine ⟨?_, ?_, ?_, stuckOnBackendFault_of_busy hc₁ rfl (by simp [k₁, Context.accepted])⟩
  · rw [hi, readOp32, operate_idle hc ha, accept_of_ok (capCheck_read _ _)]
    simp [readOps, hs, s₁, k₁]
  · rw [hi, readOp32, operate_issue hc₁ ha.1 rfl rfl rfl, issue_eq]
    simp only [Instance.issued, hs, s₁, State.afterRead_setCur_comm]
    simp [State.setCur, State.log, k₁, s₂, k₂, BusOp.event, d, ev, Context.accepted, State.readWord]
  · rw [hi, readOp32, operate_complete hc₂ ha.1 rfl rfl rfl (res := (dec s.params d).map some)
      (by simp [finishRead32, k₂, s₂]), complete_eq, hr]
    simp [s₂, s₃, k₂, k₁, State.respond, State.log, State.setCur, ev, Context.accepted,
      Context.finished]

/-- A meaning that is `readOp64` runs the split read of its slots. -/
theorem runsSplitRead_of_readOp64 {w : Word16} {i : Instr} {reg : Reg} {low high : Addr}
    {value : Word32 → Word32 → Value} (dec : Word64 → Value)
    (hw : ∀ p v, reg.wf p = true → decode p ⟨w, v⟩ = .ok i) (hi : ∀ s, exec i s = readOp64 reg dec s)
    (hs : reg.slots = { low := low, high := some high })
    (hr : ∀ lo hi, dec (join lo hi) = value lo hi) : RunsSplitRead w i reg low high value := by
  refine ⟨hw, fun s k hc ha => ?_⟩
  have hne : low ≠ high := by
    have := low_ne_high (r := reg) (h := high) (by rw [hs])
    rwa [hs] at this
  intro d e k₁
  split <;> rename_i ho <;> intro ev₁ ev₂ s₁ k₂ s₂ k₃ s₃ s₄
  · have hc₁ : s₁.cur? = some (k₁ [.rd low, .rd high]) := State.cur?_setCur hc _
    have hc₂ : s₂.cur? = some k₂ :=
      State.cur?_setCur (k := k) (s := s.afterRead) (by simpa using hc) k₂
    have hc₃ : s₃.cur? = some k₃ :=
      State.cur?_setCur (k := k) (s := s.afterRead.afterRead) (by simpa using hc) k₃
    refine ⟨?_, ?_, ?_, ?_, stuckOnBackendFault_of_busy hc₁ rfl (by simp [k₁, Context.accepted]),
      stuckOnBackendFault_of_busy hc₂ rfl (by simp [k₂, k₁, Context.accepted])⟩
    · rw [hi, readOp64, operate_idle hc ha, accept_of_ok (capCheck_read _ _)]
      simp [readOps, hs, s₁, k₁, ho]
    · rw [hi, readOp64, operate_issue hc₁ ha.1 rfl rfl rfl, issue_eq]
      simp only [Instance.issued, hs, Option.some.injEq, if_neg (Ne.symm hne), s₁,
        State.afterRead_setCur_comm]
      simp [State.setCur, State.log, s₂, k₂, k₁, BusOp.event, Context.accepted, ev₁, d, State.readWord]
    · rw [hi, readOp64, operate_issue hc₂ ha.1 rfl rfl rfl, issue_eq]
      simp only [Instance.issued, hs, if_true, s₂, State.afterRead_with_history,
        State.afterRead_setCur_comm]
      simp [State.setCur, State.log, s₃, k₃, k₂, k₁, BusOp.event, Context.accepted, ev₁, ev₂, e,
        State.readWord]
    · rw [hi, readOp64, operate_complete hc₃ ha.1 rfl rfl rfl (res := .ok (some (dec (join d e))))
        (by simp [finishRead64, k₃]), complete_eq, hr]
      simp [s₃, s₄, k₃, k₁, State.respond, State.log, State.setCur, Context.accepted,
        Context.finished, resultResponse]
  · have hc₁ : s₁.cur? = some (k₁ [.rd high, .rd low]) := State.cur?_setCur hc _
    have hc₂ : s₂.cur? = some k₂ :=
      State.cur?_setCur (k := k) (s := s.afterRead) (by simpa using hc) k₂
    have hc₃ : s₃.cur? = some k₃ :=
      State.cur?_setCur (k := k) (s := s.afterRead.afterRead) (by simpa using hc) k₃
    refine ⟨?_, ?_, ?_, ?_, stuckOnBackendFault_of_busy hc₁ rfl (by simp [k₁, Context.accepted]),
      stuckOnBackendFault_of_busy hc₂ rfl (by simp [k₂, k₁, Context.accepted])⟩
    · rw [hi, readOp64, operate_idle hc ha, accept_of_ok (capCheck_read _ _)]
      simp [readOps, hs, s₁, k₁, ho]
    · rw [hi, readOp64, operate_issue hc₁ ha.1 rfl rfl rfl, issue_eq]
      simp only [Instance.issued, hs, if_true, s₁, State.afterRead_setCur_comm]
      simp [State.setCur, State.log, s₂, k₂, k₁, BusOp.event, Context.accepted, ev₁, d, State.readWord]
    · rw [hi, readOp64, operate_issue hc₂ ha.1 rfl rfl rfl, issue_eq]
      simp only [Instance.issued, hs, Option.some.injEq, if_neg (Ne.symm hne), s₂,
        State.afterRead_with_history, State.afterRead_setCur_comm]
      simp [State.setCur, State.log, s₃, k₃, k₂, k₁, BusOp.event, Context.accepted, ev₁, ev₂, e,
        State.readWord]
    · rw [hi, readOp64, operate_complete hc₃ ha.1 rfl rfl rfl (res := .ok (some (dec (join e d))))
        (by simp [finishRead64, k₃]), complete_eq, hr]
      simp [s₃, s₄, k₃, k₁, State.respond, State.log, State.setCur, Context.accepted,
        Context.finished, resultResponse]

/-- A meaning that is `writeOp32` of an encoded value writes its slot, where the capability allows it. -/
theorem writesSlot_of_writeOp32 {i : Instr} {reg : Reg} {a : Addr} {raw : Word32} {s : State}
    {k : Context} (hi : ∀ t : State, t.params = s.params → exec i t = writeOp32 reg (.ok raw) t)
    (hs : reg.slots = { low := a }) (hcap : capCheck (capability s.params reg) .write = none)
    (hc : s.cur? = some k) (ha : k.CanAccept) : WritesSlot i reg a raw s k := by
  unfold WritesSlot
  intro ev s₁ s₂ s₃
  have hc₁ : s₁.cur? = some (k.accepted ⟨reg, .write⟩ [.wr a raw]) := State.cur?_setCur hc _
  have hc₂ : s₂.cur? = some (k.accepted ⟨reg, .write⟩ []) :=
    State.cur?_setCur hc (k.accepted ⟨reg, .write⟩ [])
  refine ⟨?_, ?_, ?_⟩
  · rw [hi _ rfl, writeOp32, operate_idle hc ha]
    simp only [Except.map]
    rw [accept_of_ok hcap]
    simp [writeOps32, hs, s₁]
  · rw [hi s₁ rfl, writeOp32, operate_issue hc₁ ha.1 rfl rfl rfl, issue_eq]
    simp [Instance.issued, s₁, s₂, BusOp.event, State.log, State.setCur, ev, Context.accepted]
  · rw [hi s₂ rfl, writeOp32, operate_complete hc₂ ha.1 rfl rfl rfl (res := .ok none) rfl, complete_eq]
    simp [s₂, s₃, State.respond, State.log, State.setCur, ev, Context.accepted, Context.finished,
      resultResponse]

/-- A meaning that is `writeOp32` of a ReadOnly register raises its error. -/
theorem raisesReadOnly_of_writeOp32 {i : Instr} {reg : Reg} {raw : Except OpError Word32} {s : State}
    {k : Context} (hi : exec i s = writeOp32 reg raw s) (hcap : capability s.params reg = .readOnly)
    (hc : s.cur? = some k) (ha : k.CanAccept) : RaisesReadOnly i reg s k := by
  unfold RaisesReadOnly
  rw [hi, writeOp32, operate_idle hc ha]
  simp [accept, hcap, capCheck, takeFatal, State.respond, State.log, State.setCur, Context.latched,
    fatalResult]

/-- A meaning that is `writeOp64` runs the split write of its slots, the high one first. -/
theorem runsSplitWrite_of_writeOp64 {α : Type} {w : Word16} {lane : ValuePort → α} {i : α → Instr}
    {reg : Reg} {low high : Addr} {rawLow rawHigh : α → Word32} (enc : α → Word64)
    (hw : ∀ p v, reg.wf p = true → decode p ⟨w, v⟩ = .ok (i (lane v)))
    (hi : ∀ v s, exec (i v) s = writeOp64 reg (enc v) s)
    (hs : reg.slots = { low := low, high := some high }) (hcap : ∀ p, capability p reg = .readWrite)
    (hl : ∀ v, lowOf (enc v) = rawLow v) (hh : ∀ v, highOf (enc v) = rawHigh v) :
    RunsSplitWrite w lane i reg low high rawLow rawHigh := by
  refine ⟨hw, fun v s k hc ha => ?_⟩
  intro ev₁ ev₂ k₁ s₁ s₂ s₃ s₄
  have hc₁ : s₁.cur? = some (k₁ _) := State.cur?_setCur hc _
  have hc₂ : s₂.cur? = some (k₁ _) := State.cur?_setCur (k := k) (s := s) hc (k₁ _)
  have hc₃ : s₃.cur? = some (k₁ _) := State.cur?_setCur (k := k) (s := s) hc (k₁ _)
  refine ⟨?_, ?_, ?_, ?_⟩
  · rw [hi, writeOp64, operate_idle hc ha, accept_of_ok (by simp [hcap, capCheck])]
    simp [writeOps64, hs, s₁, k₁, hl, hh]
  · rw [hi, writeOp64, operate_issue hc₁ ha.1 rfl rfl rfl, issue_eq]
    simp [State.setCur, State.log, s₁, s₂, k₁, BusOp.event, Context.accepted, Instance.issued, ev₁]
  · rw [hi, writeOp64, operate_issue hc₂ ha.1 rfl rfl rfl, issue_eq]
    simp [State.setCur, State.log, s₃, s₂, k₁, BusOp.event, Context.accepted, Instance.issued, ev₁, ev₂]
  · rw [hi, writeOp64, operate_complete hc₃ ha.1 rfl rfl rfl (res := .ok none) rfl, complete_eq]
    simp [s₃, s₄, k₁, State.respond, State.log, State.setCur, Context.accepted, Context.finished,
      resultResponse]

end Sys2Proof.Machine
end

