-- ==== Sys2Proof/Laws/Step.lean ====
section
/-!
SUPPORT. What one transition, one stimulus and one step can do, said once: the inversion lemmas every
statement about a step is derived from.
-/

namespace Sys2Proof.Machine

/-! ### The decoded register exists -/

/-- A register the Local APIC half of the decoder names has no number. -/
theorem decodeLapicReg_wf {p : Params} {idx : BitVec 12} {r : Reg} (h : decodeLapicReg idx = .ok r) :
    r.wf p = true := by
  unfold decodeLapicReg at h
  split at h
  · next q hq =>
    cases h
    have hm := List.mem_of_find?_eq_some hq
    simp only [lapicRegs, List.mem_cons, List.not_mem_nil, or_false] at hm
    rcases hm with rfl | rfl | rfl | rfl | rfl | rfl | rfl | rfl | rfl | rfl | rfl | rfl | rfl | rfl |
      rfl | rfl | rfl | rfl | rfl | rfl | rfl <;> rfl
  · cases h

/-- A redirection entry the decoder names is below the count (10_state.md R26). -/
theorem decodeRedir_wf {p : Params} {i : BitVec 8} {r : Reg} (h : decodeRedir p.redirCount i = .ok r) :
    r.wf p = true := by
  unfold decodeRedir at h
  split at h
  · dsimp only at h
    split at h
    · split at h
      · next hn => cases h; simpa [Reg.wf] using hn
      · cases h
    · cases h
  · cases h

/-- A register the I/O APIC half of the decoder names exists. -/
theorem decodeIoapicReg_wf {p : Params} {idx : BitVec 12} {r : Reg}
    (h : decodeIoapicReg p idx = .ok r) : r.wf p = true := by
  unfold decodeIoapicReg at h
  split at h
  · cases h
  · dsimp only at h
    split at h
    · cases h; rfl
    · split at h
      · cases h; rfl
      · split at h
        · cases h; rfl
        · exact decodeRedir_wf h

/-- A register the decoder names exists (30_encoding.md R62). -/
theorem decodeReq_wf {p : Params} {w : Word16} {r : Request} (h : decodeReq p w = .ok r) :
    r.reg.wf p = true := by
  unfold decodeReq at h
  split at h
  · cases h
  · split at h
    · cases h
    · next q hq =>
      cases h
      unfold decodeReg at hq
      split at hq
      · exact decodeLapicReg_wf hq
      · split at hq
        · exact decodeIoapicReg_wf hq
        · cases hq

/-- A decoded operation has a decoded request. -/
theorem decode_request {p : Params} {o : Offer} {i : Instr} (h : decode p o = .ok i) :
    decodeReq p o.word = .ok i.request := by
  unfold decode at h
  split at h
  · cases h
  · next r hr => cases h; rw [hr, ofRequest_request]

/-! ### One transition -/

/-- What one transition of an instance does: `Moved p c k k' new` takes context `c` from `k` to `k'` and
appends `new` to the bus history (43_split_sequencer.md R177). -/
inductive Moved (p : Params) (c : Nat) (k : Context) : Context → List Entry → Prop
  /-- it has no step: stuck, faulted, or waiting for a request -/
  | stays (h : k.hung = true ∨ (k.inst.phase = .idle ∧ (k.inst.fault ≠ none ∨ k.port = []))) :
      Moved p c k k []
  /-- Accept of a word that names no operation -/
  | illegal (o : Offer) (rest : List Offer) (e : Illegal) (ha : k.CanAccept)
      (hp : k.port = o :: rest) (hd : decodeReq p o.word = .error e) :
      Moved p c k { k.latched .unknownRegister with port := rest }
        [.rsp ⟨c, .unknownRegister, .word o.word⟩]
  /-- Accept of an operation its register's capability forbids -/
  | violation (o : Offer) (rest : List Offer) (r : Request) (f : FatalCode) (ha : k.CanAccept)
      (hp : k.port = o :: rest) (hd : decodeReq p o.word = .ok r)
      (hf : capCheck (capability p r.reg) r.dir = some f) :
      Moved p c k { k.latched f with port := rest } [.rsp ⟨c, fatalResult f, .register r.reg⟩]
  /-- Accept of a write whose value does not encode -/
  | recoverable (o : Offer) (rest : List Offer) (r : Request) (e : OpError) (ha : k.CanAccept)
      (hp : k.port = o :: rest) (hd : decodeReq p o.word = .ok r)
      (hc : capCheck (capability p r.reg) r.dir = none) :
      Moved p c k { k with port := rest } [.rsp ⟨c, errorResult e, .error e⟩]
  /-- Accept -/
  | accepts (o : Offer) (rest : List Offer) (r : Request) (l : List BusOp) (ha : k.CanAccept)
      (hp : k.port = o :: rest) (hd : decodeReq p o.word = .ok r)
      (hc : capCheck (capability p r.reg) r.dir = none) (hl : l.map BusOp.target = targets p r) :
      Moved p c k (({ k with port := rest } : Context).accepted r l) []
  /-- Issue of the first pending access -/
  | issues (r : Request) (op : BusOp) (rest : List BusOp) (d : Word32) (hh : k.hung = false)
      (hp : k.inst.phase = .busy) (hr : k.inst.req = some r) (ho : k.inst.pending = op :: rest) :
      Moved p c k { k with inst := k.inst.issued r op rest d } [.bus (op.event c d)]
  /-- Complete -/
  | completes (r : Request) (code : ResultCode) (payload : Payload) (hh : k.hung = false)
      (hp : k.inst.phase = .busy) (hr : k.inst.req = some r) (ho : k.inst.pending = []) :
      Moved p c k
        { k with inst := { k.inst with req := none, lo := none, hi := none, phase := .idle } }
        [.rsp ⟨c, code, payload⟩]

/-- `t` is `s` with context `c` taken from `k` to `k'` and `new` appended to the history; the inputs that
bus reads consume aside, nothing else differs. -/
structure Effect (c : Nat) (k k' : Context) (new : List Entry) (s t : State) : Prop where
  here : s.contexts[c]? = some k
  contexts : t.contexts = s.contexts.set c k'
  history : t.history = s.history ++ new
  params : t.params = s.params
  agenda : t.agenda = s.agenda

/-- Everything one transition can do when it answers a next state. -/
theorem transition_cases {s t : State} (h : transition s = .next t) :
    ∃ k k' new, Moved s.params s.ctx k k' new ∧ Effect s.ctx k k' new s t ∧ t.ctx = s.ctx := by
  unfold transition at h
  split at h
  · cases h
  · next k hc =>
    have same : s.contexts = s.contexts.set s.ctx k := by
      have := congrArg State.contexts (State.setCur_self hc)
      simpa using this.symm
    split at h
    · next hh =>
      cases h
      exact ⟨k, k, [], .stays (.inl hh), ⟨hc, same, by simp, rfl, rfl⟩, rfl⟩
    · next hh =>
      have hh : k.hung = false := by simpa using hh
      split at h
      · next hp =>
        split at h
        · next r hr =>
          obtain ⟨ops, fin, he, -, -⟩ := exec_operates (Instr.ofRequest r {}) s
          rw [he, ofRequest_request] at h
          obtain ⟨k₂, hc₂, hq⟩ := operate_cases h
          rw [hc] at hc₂
          cases hc₂
          have hne : k.inst.phase ≠ .idle := by rw [hp]; decide
          cases ho : k.inst.pending with
          | cons op rest =>
            rw [operate_issue hc hh hp hr ho] at h
            cases h
            refine ⟨k, _, _, .issues r op rest s.readWord hh hp hr ho, ?_, ?_⟩
            · rw [issue_eq]
              cases op <;> exact ⟨hc, by simp, by simp, by simp, by simp⟩
            · rw [issue_eq]; cases op <;> simp
          | nil =>
            rcases hq with rfl | ⟨-, hi, -⟩ | ⟨-, -, -, ⟨op, rest, ho', -⟩ | ⟨res, -, hf, rfl⟩⟩
            · exfalso
              cases hf : fin k.inst with
              | error f => simp [operate, hc, hh, hp, hr, ho, hf] at h
              | ok res =>
                rw [operate_complete hc hh hp hr ho hf, complete_eq] at h
                have := congrArg State.history (Host.Outcome.next.inj h)
                simp at this
            · exact absurd hi hne
            · rw [ho] at ho'; cases ho'
            · refine ⟨k, _, _, .completes r (resultResponse res).1 (resultResponse res).2 hh hp hr ho,
                ?_, ?_⟩
              · rw [complete_eq]; exact ⟨hc, by simp, by simp, rfl, rfl⟩
              · rw [complete_eq]; rfl
        · cases h
      · next hp =>
        split at h
        · next hf =>
          have ha : k.CanAccept := ⟨hh, hp, hf⟩
          split at h
          · next o rest ho =>
            unfold acceptOffer at h
            dsimp only at h
            have hc' := State.cur?_setCur hc { k with port := rest }
            split at h
            · next e hd =>
              cases h
              have hd : decodeReq s.params o.word = .error e := by
                unfold decode at hd; split at hd
                · next e' he => cases hd; exact he
                · cases hd
              refine ⟨k, _, _, .illegal o rest e ha ho hd, ?_, rfl⟩
              exact ⟨hc, by simp [unknownRegister, takeFatal, Context.latched], rfl, rfl, rfl⟩
            · next i hd =>
              obtain ⟨ops, fin, he, htg, -⟩ := exec_operates i (s.setCur { k with port := rest })
              rw [he, operate_idle hc' ha] at h
              cases h
              have hd := decode_request hd
              rcases accept_cases i.request ops { k with port := rest } (s.setCur { k with port := rest })
                with ⟨l, hl, hcap, hacc⟩ | ⟨e, -, hcap, hacc⟩ | ⟨f, hcap, hacc⟩ <;> rw [hacc]
              · exact ⟨k, _, _, .accepts o rest _ l ha ho hd hcap (htg l hl),
                  ⟨hc, by simp, by simp, rfl, rfl⟩, rfl⟩
              · exact ⟨k, _, _, .recoverable o rest _ e ha ho hd hcap,
                  ⟨hc, by simp, by simp, rfl, rfl⟩, rfl⟩
              · exact ⟨k, _, _, .violation o rest _ f ha ho hd hcap,
                  ⟨hc, by simp [Context.latched], by simp, rfl, rfl⟩, rfl⟩
          · next ho =>
            cases h
            exact ⟨k, k, [], .stays (.inr ⟨hp, .inr ho⟩), ⟨hc, same, by simp, rfl, rfl⟩, rfl⟩
        · next hf =>
          cases h
          exact ⟨k, k, [], .stays (.inr ⟨hp, .inl hf⟩), ⟨hc, same, by simp, rfl, rfl⟩, rfl⟩

/-! ### One step -/

/-- Everything one step can do when it answers a next state: a transition of the current context or of the
one the agenda names, a fault of RawAccess, or a reset. -/
theorem step_cases {s t : State} (h : step s = .next t) :
    (∃ c more k k' new, (s.agenda = [] ∧ more = [] ∧ c = s.ctx ∨ s.agenda = .run c :: more) ∧
        Moved s.params c k k' new ∧ Effect c k k' new { s with ctx := c, agenda := more } t ∧
        t.ctx = c) ∨
      (∃ c more k, s.agenda = .backendFault c :: more ∧ s.contexts[c]? = some k ∧
        (t = { s with agenda := more } ∨
          (k.inst.phase = .busy ∧ k.inst.pending ≠ [] ∧
            t = { s with agenda := more, contexts := s.contexts.set c { k with hung := true } }))) ∨
      ∃ more, s.agenda = .reset :: more ∧ t = takeReset { s with agenda := more } := by
  unfold step runAgenda at h
  split at h
  · next ha =>
    obtain ⟨k, k', new, hm, hf, hc⟩ := transition_cases h
    exact .inl ⟨s.ctx, [], k, k', new, .inl ⟨ha, rfl, rfl⟩, hm,
      ⟨hf.here, hf.contexts, hf.history, hf.params, by rw [hf.agenda, ha]⟩, hc⟩
  · next e more ha =>
    cases e with
    | run c =>
      obtain ⟨k, k', new, hm, hf, hc⟩ := transition_cases h
      exact .inl ⟨c, more, k, k', new, .inr ha, hm, hf, hc⟩
    | backendFault c =>
      obtain ⟨k, hk, ht⟩ := backendFault_cases h
      exact .inr (.inl ⟨c, more, k, ha, hk, ht⟩)
    | reset => cases h; exact .inr (.inr ⟨more, ha, rfl⟩)

/-! ### Events and responses of a context -/

@[simp] theorem eventsOf_append (c : Nat) (a b : List Entry) :
    eventsOf c (a ++ b) = eventsOf c a ++ eventsOf c b := by
  induction a with
  | nil => rfl
  | cons x xs ih => cases x <;> simp only [List.cons_append, eventsOf, ih]; split <;> simp

@[simp] theorem responsesOf_append (c : Nat) (a b : List Entry) :
    responsesOf c (a ++ b) = responsesOf c a ++ responsesOf c b := by
  induction a with
  | nil => rfl
  | cons x xs ih => cases x <;> simp only [List.cons_append, responsesOf, ih]; split <;> simp

/-- A bus event of an access is its own context's. -/
@[simp] theorem BusOp.event_ctx (c : Nat) (d : Word32) (op : BusOp) : (op.event c d).ctx = c := by
  cases op <;> rfl

/-- What a transition of one context appends holds nothing of another's. -/
theorem Moved.elsewhere {p : Params} {c d : Nat} {k k' : Context} {new : List Entry}
    (h : Moved p c k k' new) (hd : d ≠ c) : eventsOf d new = [] ∧ responsesOf d new = [] := by
  cases h <;> simp [eventsOf, responsesOf, Ne.symm hd]

end Sys2Proof.Machine
end

