-- ==== Sys2Proof/Tests/Slice0.lean ====
section
/-!
SUPPORT. Tests and witnesses. The words of the decode tests are written out from 30_encoding.md R61 and
R65, field by field (sp, dir, z, idx); the values and words of the one-step tests are the spec's own
examples (46_lapic_ops.md, 47_ioapic_ops.md, 95_test_vectors.md), named at each test.
-/

namespace Sys2Proof.Tests

open Sys2Proof Sys2Proof.Machine

/-! ### Decoding: one word per constructor -/

theorem test_decode_rdLapicId : decodeTableWord 16 0b00_0_0_000000100000 =
    some .rdLapicId := by decide
theorem test_decode_wrLapicId : decodeTableWord 16 0b00_1_0_000000100000 =
    some (.wrLapicId {}) := by decide
theorem test_decode_rdLapicVer : decodeTableWord 16 0b00_0_0_000000110000 =
    some .rdLapicVer := by decide
theorem test_decode_wrLapicVer : decodeTableWord 16 0b00_1_0_000000110000 =
    some (.wrLapicVer {}) := by decide
theorem test_decode_rdLapicTpr : decodeTableWord 16 0b00_0_0_000010000000 =
    some .rdLapicTpr := by decide
theorem test_decode_wrLapicTpr : decodeTableWord 16 0b00_1_0_000010000000 =
    some (.wrLapicTpr {}) := by decide
theorem test_decode_rdLapicApr : decodeTableWord 16 0b00_0_0_000010010000 =
    some .rdLapicApr := by decide
theorem test_decode_wrLapicApr : decodeTableWord 16 0b00_1_0_000010010000 =
    some (.wrLapicApr {}) := by decide
theorem test_decode_rdLapicPpr : decodeTableWord 16 0b00_0_0_000010100000 =
    some .rdLapicPpr := by decide
theorem test_decode_wrLapicPpr : decodeTableWord 16 0b00_1_0_000010100000 =
    some (.wrLapicPpr {}) := by decide
theorem test_decode_rdLapicEoi : decodeTableWord 16 0b00_0_0_000010110000 =
    some .rdLapicEoi := by decide
theorem test_decode_wrLapicEoi : decodeTableWord 16 0b00_1_0_000010110000 =
    some (.wrLapicEoi 0) := by decide
theorem test_decode_rdLapicLdr : decodeTableWord 16 0b00_0_0_000011010000 =
    some .rdLapicLdr := by decide
theorem test_decode_wrLapicLdr : decodeTableWord 16 0b00_1_0_000011010000 =
    some (.wrLapicLdr {}) := by decide
theorem test_decode_rdLapicDfr : decodeTableWord 16 0b00_0_0_000011100000 =
    some .rdLapicDfr := by decide
theorem test_decode_wrLapicDfr : decodeTableWord 16 0b00_1_0_000011100000 =
    some (.wrLapicDfr .cluster) := by decide
theorem test_decode_rdLapicSvr : decodeTableWord 16 0b00_0_0_000011110000 =
    some .rdLapicSvr := by decide
theorem test_decode_wrLapicSvr : decodeTableWord 16 0b00_1_0_000011110000 =
    some (.wrLapicSvr {}) := by decide
theorem test_decode_rdLapicEsr : decodeTableWord 16 0b00_0_0_001010000000 =
    some .rdLapicEsr := by decide
theorem test_decode_wrLapicEsr : decodeTableWord 16 0b00_1_0_001010000000 =
    some (.wrLapicEsr {}) := by decide
theorem test_decode_rdLapicLvtCmci : decodeTableWord 16 0b00_0_0_001011110000 =
    some .rdLapicLvtCmci := by decide
theorem test_decode_wrLapicLvtCmci : decodeTableWord 16 0b00_1_0_001011110000 =
    some (.wrLapicLvtCmci {}) := by decide
theorem test_decode_rdLapicIcr : decodeTableWord 16 0b00_0_0_001100000000 =
    some .rdLapicIcr := by decide
theorem test_decode_wrLapicIcr : decodeTableWord 16 0b00_1_0_001100000000 =
    some (.wrLapicIcr {}) := by decide
theorem test_decode_rdLapicLvtTimer : decodeTableWord 16 0b00_0_0_001100100000 =
    some .rdLapicLvtTimer := by decide
theorem test_decode_wrLapicLvtTimer : decodeTableWord 16 0b00_1_0_001100100000 =
    some (.wrLapicLvtTimer {}) := by decide
theorem test_decode_rdLapicLvtThermal : decodeTableWord 16 0b00_0_0_001100110000 =
    some .rdLapicLvtThermal := by decide
theorem test_decode_wrLapicLvtThermal : decodeTableWord 16 0b00_1_0_001100110000 =
    some (.wrLapicLvtThermal {}) := by decide
theorem test_decode_rdLapicLvtPerf : decodeTableWord 16 0b00_0_0_001101000000 =
    some .rdLapicLvtPerf := by decide
theorem test_decode_wrLapicLvtPerf : decodeTableWord 16 0b00_1_0_001101000000 =
    some (.wrLapicLvtPerf {}) := by decide
theorem test_decode_rdLapicLvtLint0 : decodeTableWord 16 0b00_0_0_001101010000 =
    some .rdLapicLvtLint0 := by decide
theorem test_decode_wrLapicLvtLint0 : decodeTableWord 16 0b00_1_0_001101010000 =
    some (.wrLapicLvtLint0 {}) := by decide
theorem test_decode_rdLapicLvtLint1 : decodeTableWord 16 0b00_0_0_001101100000 =
    some .rdLapicLvtLint1 := by decide
theorem test_decode_wrLapicLvtLint1 : decodeTableWord 16 0b00_1_0_001101100000 =
    some (.wrLapicLvtLint1 {}) := by decide
theorem test_decode_rdLapicLvtError : decodeTableWord 16 0b00_0_0_001101110000 =
    some .rdLapicLvtError := by decide
theorem test_decode_wrLapicLvtError : decodeTableWord 16 0b00_1_0_001101110000 =
    some (.wrLapicLvtError {}) := by decide
theorem test_decode_rdLapicTmrInit : decodeTableWord 16 0b00_0_0_001110000000 =
    some .rdLapicTmrInit := by decide
theorem test_decode_wrLapicTmrInit : decodeTableWord 16 0b00_1_0_001110000000 =
    some (.wrLapicTmrInit 0) := by decide
theorem test_decode_rdLapicTmrCur : decodeTableWord 16 0b00_0_0_001110010000 =
    some .rdLapicTmrCur := by decide
theorem test_decode_wrLapicTmrCur : decodeTableWord 16 0b00_1_0_001110010000 =
    some (.wrLapicTmrCur 0) := by decide
theorem test_decode_rdLapicDcr : decodeTableWord 16 0b00_0_0_001111100000 =
    some .rdLapicDcr := by decide
theorem test_decode_wrLapicDcr : decodeTableWord 16 0b00_1_0_001111100000 =
    some (.wrLapicDcr {}) := by decide
theorem test_decode_rdIoapicId : decodeTableWord 16 0b01_0_0_000000000000 =
    some .rdIoapicId := by decide
theorem test_decode_wrIoapicId : decodeTableWord 16 0b01_1_0_000000000000 =
    some (.wrIoapicId {}) := by decide
theorem test_decode_rdIoapicVer : decodeTableWord 16 0b01_0_0_000000000001 =
    some .rdIoapicVer := by decide
theorem test_decode_wrIoapicVer : decodeTableWord 16 0b01_1_0_000000000001 =
    some (.wrIoapicVer {}) := by decide
theorem test_decode_rdIoapicArb : decodeTableWord 16 0b01_0_0_000000000010 =
    some .rdIoapicArb := by decide
theorem test_decode_wrIoapicArb : decodeTableWord 16 0b01_1_0_000000000010 =
    some (.wrIoapicArb {}) := by decide
theorem test_decode_rdIoapicRedir : decodeTableWord 16 0b01_0_0_000000111110 =
    some (.rdIoapicRedir 23) := by decide
theorem test_decode_wrIoapicRedir : decodeTableWord 16 0b01_1_0_000000111110 =
    some (.wrIoapicRedir 23 {}) := by decide

/-- The encoder gives back the word a test above decodes (30_encoding.md R65, rows `WR.LAPIC.DCR` and
`WR.IOAPIC.REDIR[n]`). -/
theorem test_encode_words : encode (.wrLapicDcr { divisor := 16 }) = [0b00_1_0_001111100000] ∧
    encode (.wrIoapicRedir 23 {}) = [0b01_1_0_000000111110] := by decide

/-- Why `DecodeReq` refuses a word, under the parameters of `State.reset`. -/
def refusal (w : Word16) : Option Illegal :=
  match decodeReq Params.atReset w with
  | .ok _ => none
  | .error e => some e

/-- 95_test_vectors.md V8, the Local APIC rows: 0x0310, 0x2310, 0x0000, 0x0024, 0x0FF0, 0x1080. -/
theorem test_illegal_lapic_words :
    refusal 0x0310 = some .noLapicRegister ∧ refusal 0x2310 = some .noLapicRegister ∧
    refusal 0x0000 = some .noLapicRegister ∧ refusal 0x0024 = some .noLapicRegister ∧
    refusal 0x0FF0 = some .noLapicRegister ∧ refusal 0x1080 = some .reservedBit := by decide

/-- 95_test_vectors.md V8, the I/O APIC rows and the reserved spaces: 0x4003, 0x4011, 0x4040, 0x4110,
0x8000, 0xC080. -/
theorem test_illegal_ioapic_words :
    refusal 0x4003 = some .noIoapicRegister ∧ refusal 0x4011 = some .noIoapicRegister ∧
    refusal 0x4040 = some .beyondRedirCount ∧ refusal 0x4110 = some .indexTooWide ∧
    refusal 0x8000 = some .reservedSpace ∧ refusal 0xC080 = some .reservedSpace := by decide

/-! ### Well-formedness: an ill-formed term for each check, which the check refuses -/

theorem test_params_wf : Params.atReset.wf = true := by decide
/-- 00_scope.md R8: `IOAPIC_REDIR_COUNT` is at least 1. -/
theorem test_params_count_zero :
    Params.wf { redirCount := 0, splitReadOrder := .lowFirst } = false := by
  decide
/-- 00_scope.md R8: `IOAPIC_REDIR_COUNT` is at most 120. -/
theorem test_params_count_over :
    Params.wf { redirCount := 121, splitReadOrder := .lowFirst } = false := by
  decide
theorem test_apicId_wf : ApicId.wf .four { id := 0xF } = true := by decide
/-- 41_bitfield_codec.md R110: a 4-bit identifier is below 16. -/
theorem test_apicId_too_wide : ApicId.wf .four { id := 0x10 } = false := by decide
/-- 41_bitfield_codec.md R123. -/
theorem test_arbId_too_wide : ArbId.wf .four { arbId := 0x10 } = false := by decide
theorem test_redir_wf : Reg.wf Params.atReset (.ioapicRedir 23) = true := by decide
/-- 10_state.md R26: `n` is below `IOAPIC_REDIR_COUNT`. -/
theorem test_redir_beyond_count : Reg.wf Params.atReset (.ioapicRedir 24) = false := by decide
theorem test_instr_wf : Instr.wf Params.atReset (.wrLapicId { id := 0xFF }) = true := by decide
theorem test_instr_id_too_wide :
    Instr.wf Params.atReset (.wrIoapicId { id := 0x10 }) = false := by decide
theorem test_instr_arb_too_wide :
    Instr.wf Params.atReset (.wrIoapicArb { arbId := 0x10 }) = false := by
  decide
theorem test_instr_redir_beyond :
    Instr.wf Params.atReset (.rdIoapicRedir 24) = false ∧
      Instr.wf Params.atReset (.wrIoapicRedir 24 {}) = false := by decide

/-! ### Codecs (95_test_vectors.md) -/

/-- V1, V13: the divisor codec, wrap and ignored bits among the rows. -/
theorem test_divisor_decode :
    (decodeDivisor 0xA).divisor = 128 ∧ (decodeDivisor 0xB).divisor = 1 ∧ (decodeDivisor 0x3).divisor = 16 ∧
    (decodeDivisor 0x0).divisor = 2 ∧ (decodeDivisor 0x8).divisor = 32 ∧ (decodeDivisor 0x4).divisor = 2 ∧
    (decodeDivisor 0xF).divisor = 1 ∧ (decodeDivisor 0xFFFFFFF3).divisor = 16 := by decide
/-- The word a divisor encodes to, if it has one. -/
def divisorWord (d : Word32) : Option Word32 := (encodeDivisor { divisor := d }).toOption
/-- V1, V13. -/
theorem test_divisor_encode : divisorWord 128 = some 0xA ∧ divisorWord 1 = some 0xB ∧
    divisorWord 16 = some 0x3 ∧ divisorWord 3 = none ∧ divisorWord 0 = none ∧ divisorWord 256 = none ∧
    divisorWord 0xFFFFFFFF = none := by decide
/-- V2. -/
theorem test_rotl_wraps : rotl8 0x02 7 = 0x01 := by decide
/-- V3, V14. -/
theorem test_priority : encodePrio { cls := 15, subClass := 15 } = 0xFF ∧
    decodePrio 0x3D = { cls := 3, subClass := 13 } ∧
    mkPriority (0x13 : Word32) (0x2F : Word32) = { cls := 3, subClass := 15 } ∧
    mkPriority (0x13 : BitVec 8) (0x2F : BitVec 6) = { cls := 3, subClass := 15 } := by decide
/-- V9: fields next to reserved bits. -/
theorem test_layouts_decode :
    decodeApicId .eight 0xFF123456 = { id := 0xFF } ∧ decodeApicId .four 0xF5ABCDEF = { id := 0x5 } ∧
    decodeLapicVersion 0xFEFAFF14 = { version := 0x14, maxLvt := 0xFA } ∧
    decodeIoapicVersion 0x01170011 = { version := 0x11, maxRedir := 0x17 } ∧
    decodeArbId .four 0xFA000000 = { arbId := 0xA } ∧ decodeErrorStatus 0xFFFFFF00 = {} := by decide
/-- V9: the re-encode column. -/
theorem test_layouts_reencode :
    encodeSpuriousVector (decodeSpuriousVector 0xFFFFFFFF) = 0x000013FF ∧
    encodeLvtTimer (decodeLvtTimer 0xFFFFFFFF) = 0x0007F7FF ∧
    encodeLvtEntry (decodeLvtEntry 0x00060800) = 0 ∧
    encodeIcr (decodeIcr 0xFFFFFFFFFFFFFFFF) = 0xFF000000000CDFFF ∧
    encodeRedirEntry (decodeRedirEntry 0xFFFFFFFFFFFFFFFF) = 0xFF0000000001FFFF := by decide
/-- V11. -/
theorem test_icr_encode :
    encodeIcr { deliveryMode := .startUp, vector := 0x08, level := true, shorthand := .allExcludingSelf } =
      0x00000000000C4608 ∧
    encodeIcr { deliveryMode := .nmi, destMode := true, level := true, destination := 0x0F } =
      0x0F00000000004C00 := by decide
/-- V12: the destination is in bits[63:56] in both modes. -/
theorem test_redir_destination :
    encodeRedirEntry { destMode := true, destination := 0x03 } = 0x0300000000000800 ∧
    encodeRedirEntry { destMode := false, destination := 0x03 } = 0x0300000000000000 ∧
    (decodeRedirEntry 0x600).deliveryMode = .reserved6 := by decide
/-- V10: a reserved code is a value, not an error. -/
theorem test_lvt_reserved_code : (decodeLvtEntry 0x100).deliveryMode = .reserved1 := by decide

/-! ### One step of each operation -/

/-- The responses a transition appended to an empty history: code and payload. -/
def answered : Result → List (ResultCode × Payload)
  | .next s => (responsesOf s.ctx s.history).map (fun r => (r.code, r.payload))
  | .fault _ => []
  | .refused _ => []

/-- The bus accesses context 0 has to issue after a transition. -/
def queued : Result → List BusOp
  | .next s => (s.contexts.head?.map (fun k => k.inst.pending)).getD []
  | .fault _ => []
  | .refused _ => []

/-- The bus events of a transition. -/
def issued : Result → List BusEvent
  | .next s => eventsOf s.ctx s.history
  | .fault _ => []
  | .refused _ => []

/-- The fault context 0 holds after a transition. -/
def latched : Result → Option FatalCode
  | .next s => (s.contexts.head?.map (fun k => k.inst.fault)).getD none
  | .fault _ => none
  | .refused _ => none

/-- Context 0 about to complete a read of `reg`, its latches filled. -/
def reading (reg : Reg) (lo : Word32) (hi : Option Word32 := none) : State :=
  { State.reset with
    contexts := [{ inst := { phase := .busy, req := some ⟨reg, .read⟩, lo := some lo, hi := hi } }] }

/-- R220. -/
theorem test_rdLapicId : answered (exec .rdLapicId (reading .lapicId 0x05000000)) =
    [(.ok, .value (.apicId { id := 0x05 }))] := by decide
/-- R222. -/
theorem test_rdLapicVer : answered (exec .rdLapicVer (reading .lapicVer 0x01050014)) =
    [(.ok, .value (.lapicVersion { version := 0x14, maxLvt := 0x05, eoiSuppression := true }))] := by decide
/-- R224. -/
theorem test_rdLapicTpr : answered (exec .rdLapicTpr (reading .lapicTpr 0xFFFFFF3D)) =
    [(.ok, .value (.priority { cls := 3, subClass := 13 }))] := by decide
/-- R226. -/
theorem test_rdLapicApr : answered (exec .rdLapicApr (reading .lapicApr 0x00000020)) =
    [(.ok, .value (.priority { cls := 2 }))] := by decide
/-- V15. -/
theorem test_rdLapicPpr : answered (exec .rdLapicPpr (reading .lapicPpr 0x00000051)) =
    [(.ok, .value (.priority { cls := 5, subClass := 1 }))] := by decide
/-- V9. -/
theorem test_rdLapicEoi : answered (exec .rdLapicEoi (reading .lapicEoi 0xDEADBEEF)) =
    [(.ok, .value (.word 0xDEADBEEF))] := by decide
/-- R232. -/
theorem test_rdLapicLdr : answered (exec .rdLapicLdr (reading .lapicLdr 0x01ABCDEF)) =
    [(.ok, .value (.logicalDest { logicalId := 0x01 }))] := by decide
/-- R234. -/
theorem test_rdLapicDfr : answered (exec .rdLapicDfr (reading .lapicDfr 0x0FFFFFFF)) =
    [(.ok, .value (.destFormat .cluster))] := by decide
/-- R236. -/
theorem test_rdLapicSvr : answered (exec .rdLapicSvr (reading .lapicSvr 0x000001FF)) =
    [(.ok, .value (.spuriousVector { vector := 0xFF, apicEnable := true }))] := by decide
/-- R238. -/
theorem test_rdLapicEsr : answered (exec .rdLapicEsr (reading .lapicEsr 0x00000041)) =
    [(.ok, .value (.errorStatus { e0 := true, e6 := true }))] := by decide
/-- R240. -/
theorem test_rdLapicLvtCmci : answered (exec .rdLapicLvtCmci (reading .lapicLvtCmci 0x00010000)) =
    [(.ok, .value (.lvtEntry { mask := true }))] := by decide
/-- R242. -/
theorem test_rdLapicIcr :
    answered (exec .rdLapicIcr (reading .lapicIcr 0x00001030 (some 0x02000000))) =
    [(.ok, .value (.icr { vector := 0x30, deliveryStatus := true, destination := 0x02 }))] := by decide
/-- R244. -/
theorem test_rdLapicLvtTimer : answered (exec .rdLapicLvtTimer (reading .lapicLvtTimer 0x00020040)) =
    [(.ok, .value (.lvtTimer { vector := 0x40, timerMode := .periodic }))] := by decide
/-- R246. -/
theorem test_rdLapicLvtThermal :
    answered (exec .rdLapicLvtThermal (reading .lapicLvtThermal 0xFFFFFFFF)) =
    [(.ok, .value (.lvtEntry ⟨0xFF, .extInt, true, true, true, true, true⟩))] := by decide
/-- V10. -/
theorem test_rdLapicLvtPerf : answered (exec .rdLapicLvtPerf (reading .lapicLvtPerf 0x00000100)) =
    [(.ok, .value (.lvtEntry { deliveryMode := .reserved1 }))] := by decide
/-- R250. -/
theorem test_rdLapicLvtLint0 : answered (exec .rdLapicLvtLint0 (reading .lapicLvtLint0 0x00000700)) =
    [(.ok, .value (.lvtEntry { deliveryMode := .extInt }))] := by decide
/-- R252. -/
theorem test_rdLapicLvtLint1 : answered (exec .rdLapicLvtLint1 (reading .lapicLvtLint1 0x00000400)) =
    [(.ok, .value (.lvtEntry { deliveryMode := .nmi }))] := by decide
/-- R254. -/
theorem test_rdLapicLvtError : answered (exec .rdLapicLvtError (reading .lapicLvtError 0x000000FE)) =
    [(.ok, .value (.lvtEntry { vector := 0xFE }))] := by decide
/-- R256. -/
theorem test_rdLapicTmrInit : answered (exec .rdLapicTmrInit (reading .lapicTmrInit 0x00100000)) =
    [(.ok, .value (.word 0x00100000))] := by decide
/-- R258. -/
theorem test_rdLapicTmrCur : answered (exec .rdLapicTmrCur (reading .lapicTmrCur 0x0000ABCD)) =
    [(.ok, .value (.word 0x0000ABCD))] := by decide
/-- R260. -/
theorem test_rdLapicDcr : answered (exec .rdLapicDcr (reading .lapicDcr 0xFFFFFFFA)) =
    [(.ok, .value (.divisor { divisor := 128 }))] := by decide
/-- V9. -/
theorem test_rdIoapicId : answered (exec .rdIoapicId (reading .ioapicId 0xF5ABCDEF)) =
    [(.ok, .value (.apicId { id := 0x5 }))] := by decide
/-- V9. -/
theorem test_rdIoapicVer : answered (exec .rdIoapicVer (reading .ioapicVer 0x01170011)) =
    [(.ok, .value (.ioapicVersion { version := 0x11, maxRedir := 0x17 }))] := by decide
/-- R274. -/
theorem test_rdIoapicArb : answered (exec .rdIoapicArb (reading .ioapicArb 0x0A000000)) =
    [(.ok, .value (.arbId { arbId := 0xA }))] := by decide
/-- R276. -/
theorem test_rdIoapicRedir :
    answered (exec (.rdIoapicRedir 2) (reading (.ioapicRedir 2) 0x0001A022 (some 0x01000000))) =
    [(.ok, .value (.redirEntry { vector := 0x22, polarity := true, trigger := true, mask := true, destination := 0x01 }))] := by decide
/-- R221. -/
theorem test_wrLapicId :
    queued (exec (.wrLapicId { id := 0x12 }) State.reset) = [.wr (.lapic 0x020) 0x12000000] := by
  decide
/-- R225. -/
theorem test_wrLapicTpr :
    queued (exec (.wrLapicTpr { cls := 3, subClass := 13 }) State.reset) =
      [.wr (.lapic 0x080) 0x0000003D] := by
  decide
/-- R231. -/
theorem test_wrLapicEoi :
    queued (exec (.wrLapicEoi 0x00000000) State.reset) = [.wr (.lapic 0x0B0) 0x00000000] := by
  decide
/-- R233. -/
theorem test_wrLapicLdr :
    queued (exec (.wrLapicLdr { logicalId := 0x80 }) State.reset) =
      [.wr (.lapic 0x0D0) 0x80000000] := by
  decide
/-- R235. -/
theorem test_wrLapicDfr :
    queued (exec (.wrLapicDfr .cluster) State.reset) = [.wr (.lapic 0x0E0) 0x0FFFFFFF] := by
  decide
/-- R237. -/
theorem test_wrLapicSvr :
    queued (exec (.wrLapicSvr ⟨0x27, true, true, true⟩) State.reset) =
      [.wr (.lapic 0x0F0) 0x00001327] := by
  decide
/-- V9. -/
theorem test_wrLapicEsr :
    queued (exec (.wrLapicEsr { e0 := true, e6 := true }) State.reset) =
      [.wr (.lapic 0x280) 0x00000041] := by
  decide
/-- R241. -/
theorem test_wrLapicLvtCmci :
    queued (exec (.wrLapicLvtCmci { vector := 0x50 }) State.reset) =
      [.wr (.lapic 0x2F0) 0x00000050] := by
  decide
/-- R243, V4. -/
theorem test_wrLapicIcr :
    queued (exec (.wrLapicIcr { vector := 0x30, destination := 0x02 }) State.reset) =
      [.wr (.lapic 0x310) 0x02000000, .wr (.lapic 0x300) 0x00000030] := by
  decide
/-- R245. -/
theorem test_wrLapicLvtTimer :
    queued (exec (.wrLapicLvtTimer { vector := 0x40, timerMode := .periodic }) State.reset) =
      [.wr (.lapic 0x320) 0x00020040] := by
  decide
/-- R247. -/
theorem test_wrLapicLvtThermal :
    queued (exec (.wrLapicLvtThermal { vector := 0x60, deliveryMode := .smi }) State.reset) =
      [.wr (.lapic 0x330) 0x00000260] := by
  decide
/-- R249. -/
theorem test_wrLapicLvtPerf :
    queued (exec (.wrLapicLvtPerf { deliveryMode := .nmi }) State.reset) =
      [.wr (.lapic 0x340) 0x00000400] := by
  decide
/-- V10. -/
theorem test_wrLapicLvtLint0 :
    queued (exec (.wrLapicLvtLint0 { deliveryMode := .extInt, trigger := true }) State.reset) =
      [.wr (.lapic 0x350) 0x00008700] := by
  decide
/-- R253. -/
theorem test_wrLapicLvtLint1 :
    queued (exec (.wrLapicLvtLint1 { deliveryMode := .nmi, trigger := true }) State.reset) =
      [.wr (.lapic 0x360) 0x00008400] := by
  decide
/-- V10. -/
theorem test_wrLapicLvtError :
    queued (exec (.wrLapicLvtError { mask := true }) State.reset) =
      [.wr (.lapic 0x370) 0x00010000] := by
  decide
/-- R257. -/
theorem test_wrLapicTmrInit :
    queued (exec (.wrLapicTmrInit 0x00100000) State.reset) = [.wr (.lapic 0x380) 0x00100000] := by
  decide
/-- R261. -/
theorem test_wrLapicDcr :
    queued (exec (.wrLapicDcr { divisor := 16 }) State.reset) = [.wr (.lapic 0x3E0) 0x00000003] := by
  decide
/-- R271. -/
theorem test_wrIoapicId :
    queued (exec (.wrIoapicId { id := 0x2 }) State.reset) = [.wr (.ioapic 0x00) 0x02000000] := by
  decide
/-- R277. -/
theorem test_wrIoapicRedir :
    queued (exec (.wrIoapicRedir 2 { vector := 0x31, destination := 0x01 }) State.reset) =
      [.wr (.ioapic 0x15) 0x01000000, .wr (.ioapic 0x14) 0x00000031] := by
  decide
/-- R223. -/
theorem test_wrLapicVer : answered (exec (.wrLapicVer { version := 0x14 }) State.reset) =
      [(.readOnlyViolation, .register .lapicVer)] ∧
    latched (exec (.wrLapicVer { version := 0x14 }) State.reset) = some .readOnlyViolation ∧
    queued (exec (.wrLapicVer { version := 0x14 }) State.reset) = [] := by decide
/-- R227. -/
theorem test_wrLapicApr : answered (exec (.wrLapicApr { cls := 2 }) State.reset) =
      [(.readOnlyViolation, .register .lapicApr)] ∧
    latched (exec (.wrLapicApr { cls := 2 }) State.reset) = some .readOnlyViolation ∧
    queued (exec (.wrLapicApr { cls := 2 }) State.reset) = [] := by decide
/-- R229, V5. -/
theorem test_wrLapicPpr : answered (exec (.wrLapicPpr { cls := 1 }) State.reset) =
      [(.readOnlyViolation, .register .lapicPpr)] ∧
    latched (exec (.wrLapicPpr { cls := 1 }) State.reset) = some .readOnlyViolation ∧
    queued (exec (.wrLapicPpr { cls := 1 }) State.reset) = [] := by decide
/-- R259. -/
theorem test_wrLapicTmrCur : answered (exec (.wrLapicTmrCur 0) State.reset) =
      [(.readOnlyViolation, .register .lapicTmrCur)] ∧
    latched (exec (.wrLapicTmrCur 0) State.reset) = some .readOnlyViolation ∧
    queued (exec (.wrLapicTmrCur 0) State.reset) = [] := by decide
/-- R273, V5. -/
theorem test_wrIoapicVer : answered (exec (.wrIoapicVer { version := 0x11 }) State.reset) =
      [(.readOnlyViolation, .register .ioapicVer)] ∧
    latched (exec (.wrIoapicVer { version := 0x11 }) State.reset) = some .readOnlyViolation ∧
    queued (exec (.wrIoapicVer { version := 0x11 }) State.reset) = [] := by decide
/-- R275, V5. -/
theorem test_wrIoapicArb : answered (exec (.wrIoapicArb { arbId := 1 }) State.reset) =
      [(.readOnlyViolation, .register .ioapicArb)] ∧
    latched (exec (.wrIoapicArb { arbId := 1 }) State.reset) = some .readOnlyViolation ∧
    queued (exec (.wrIoapicArb { arbId := 1 }) State.reset) = [] := by decide
/-- R227, V15: with `APR_CAPABILITY = ReadWrite` the write is queued. -/
theorem test_wrLapicApr_readWrite :
    queued (exec (.wrLapicApr { cls := 2 })
      (State.resetWith { Params.atReset with aprCapability := .readWrite } 1)) =
        [.wr (.lapic 0x090) 0x00000020] := by decide
/-- R234, V15: the recoverable error of a read. -/
theorem test_rdLapicDfr_invalid : answered (exec .rdLapicDfr (reading .lapicDfr 0x8FFFFFFF)) =
    [(.invalidEncoding, .error (.invalidEncoding .dfrModel 0x8))] := by decide
/-- V9: the flat model, whatever the reserved bits, and the model values next to the two legal ones. -/
theorem test_rdLapicDfr_model_fields :
    answered (exec .rdLapicDfr (reading .lapicDfr 0xF0000000)) = [(.ok, .value (.destFormat .flat))] ∧
    answered (exec .rdLapicDfr (reading .lapicDfr 0x1FFFFFFF)) =
      [(.invalidEncoding, .error (.invalidEncoding .dfrModel 0x1))] ∧
    answered (exec .rdLapicDfr (reading .lapicDfr 0xEFFFFFFF)) =
      [(.invalidEncoding, .error (.invalidEncoding .dfrModel 0xE))] := by decide
/-- R261, V15: the recoverable error of a write; nothing is latched and nothing is queued. -/
theorem test_wrLapicDcr_invalid :
    answered (exec (.wrLapicDcr { divisor := 3 }) State.reset) =
      [(.invalidDivisor, .error (.invalidDivisor 3))] ∧
    latched (exec (.wrLapicDcr { divisor := 3 }) State.reset) = none ∧
    queued (exec (.wrLapicDcr { divisor := 3 }) State.reset) = [] := by decide
/-- V16: the order of a split read under each value of `SPLIT_READ_ORDER`. -/
theorem test_split_read_order :
    queued (exec (.rdIoapicRedir 0) State.reset) = [.rd (.ioapic 0x10), .rd (.ioapic 0x11)] ∧
    queued (exec (.rdIoapicRedir 0)
      (State.resetWith { Params.atReset with splitReadOrder := .highFirst } 1)) =
        [.rd (.ioapic 0x11), .rd (.ioapic 0x10)] := by decide
/-- V4, R179: the first Issue of an ICR write is the high slot. -/
theorem test_issue_high_first :
    issued (exec (.wrLapicIcr {})
      { State.reset with
        contexts := [({} : Context).accepted ⟨.lapicIcr, .write⟩
          [.wr (.lapic 0x310) 0x02000000, .wr (.lapic 0x300) 0x00000030]] }) =
      [⟨0, .write, .lapic 0x310, 0x02000000⟩] := by decide
/-- V15: an illegal word (0x2310, the ICR's high slot) latches `UnknownRegister`. -/
theorem test_unknown_register :
    answered (step (State.reset.withFetchWord 16 0x2310)) = [(.unknownRegister, .word 0x2310)] ∧
    latched (step (State.reset.withFetchWord 16 0x2310)) = some .unknownRegister := by decide
/-- The first step after reset runs the request that stands on the port. -/
theorem test_first_step :
    queued (step (State.reset.withFetchWord 16 0x0020)) = [.rd (.lapic 0x020)] := by
  decide

/-! ### Witnesses: concrete states and operands that meet the hypotheses of the statements

The reads and writes of every register ask for the same thing: a current context that can accept. -/

/-- For every `RunsRead`, `RunsSplitRead`, `RunsWrite` and `RunsSplitWrite` statement, and for
`ReadOnlyWritesLatchTheFault` and `DivisorWriteFollowsItsTable`: the reset state is ready. -/
theorem witness_ready : State.reset.cur? = some {} ∧ Context.CanAccept {} := ⟨rfl, rfl, rfl, rfl⟩

/-- A ready state with `SPLIT_READ_ORDER = HighFirst` and `APR_CAPABILITY = ReadWrite`. -/
def readyOther : State :=
  State.resetWith { Params.atReset with splitReadOrder := .highFirst, aprCapability := .readWrite } 1

/-- For `IcrReadRuns` and `RedirReadRuns`: both orders have a ready state; the registers exist, the first
and the last redirection entry among them. -/
theorem witness_split_reads :
    State.reset.params.splitReadOrder = .lowFirst ∧ readyOther.params.splitReadOrder = .highFirst ∧
    readyOther.cur? = some {} ∧ Reg.wf Params.atReset .lapicIcr = true ∧
    Reg.wf Params.atReset (.ioapicRedir 0) = true ∧ Reg.wf Params.atReset (.ioapicRedir 23) = true ∧
    Reg.wf { Params.atReset with redirCount := 120 } (.ioapicRedir 119) = true :=
  ⟨rfl, rfl, rfl, rfl, rfl, rfl, rfl⟩

/-- For `DestFormatReadRuns`: a word for each clause, the model field at the edges of its ranges, and a
transition that answers `InvalidEncoding`. -/
theorem witness_dfr_model_fields :
    (0xF0000000 : Word32).extractLsb' 28 4 = 0xF ∧ (0x0FFFFFFF : Word32).extractLsb' 28 4 = 0x0 ∧
    (0x1FFFFFFF : Word32).extractLsb' 28 4 = 0x1 ∧ (0xE0000000 : Word32).extractLsb' 28 4 = 0xE ∧
    ∃ t, exec .rdLapicDfr (reading .lapicDfr 0x1FFFFFFF) = .next t ∧
      t.history = (reading .lapicDfr 0x1FFFFFFF).history ++
        [.rsp ⟨0, .invalidEncoding, .error (.invalidEncoding .dfrModel 0x1)⟩] :=
  ⟨by decide, by decide, by decide, by decide, _, rfl, rfl⟩

/-- For `AprWriteFollowsItsCapability`: both capabilities have a ready state. -/
theorem witness_apr_capabilities :
    State.reset.params.aprCapability = .readOnly ∧ readyOther.params.aprCapability = .readWrite ∧
    readyOther.cur? = some {} ∧ Context.CanAccept {} := ⟨rfl, rfl, rfl, rfl, rfl, rfl⟩

/-- For `DivisorWriteFollowsItsTable` and `DivisorCodecMatchesItsTable`: divisors outside the table, at its
edges. -/
theorem witness_divisors_outside :
    (∀ d ∈ ([0, 3, 256, 0xFFFFFFFF] : List Word32),
      d ∉ ([1, 2, 4, 8, 16, 32, 64, 128] : List Word32)) := by simp

/-- For `EveryTransitionKeepsToItsContext`: an operation that answers a next state, with another context
beside it. -/
theorem witness_transition : (∃ t, exec .rdLapicId State.reset = .next t) ∧ (1 : Nat) ≠ State.reset.ctx :=
  ⟨⟨_, rfl⟩, by decide⟩

/-- An instance with a fault latched. -/
def faulted : Context := ({} : Context).latched .readOnlyViolation

/-- For `AnInstanceThatCannotAcceptStays`: a faulted instance, and one busy with another request. -/
theorem witness_cannot_accept :
    ({ State.reset with contexts := [faulted] } : State).cur? = some faulted ∧
    (faulted.inst.phase = .idle ∧ faulted.inst.fault ≠ none) ∧
    (reading .lapicId 0).cur? = some ((reading .lapicId 0).contexts.head (by decide)) ∧
    ((reading .lapicId 0).contexts.head (by decide)).inst.phase = .busy ∧
    ((reading .lapicId 0).contexts.head (by decide)).inst.req ≠ some (Instr.request .rdLapicVer) :=
  ⟨rfl, ⟨rfl, by decide⟩, rfl, rfl, by decide⟩

/-- For `DecodeOfOfferIsTheOperation`: well-formed operations at the edges of their operands. -/
theorem witness_wf_operations :
    Instr.wf Params.atReset (.wrLapicId { id := 0xFF }) = true ∧
    Instr.wf Params.atReset (.wrIoapicId { id := 0xF }) = true ∧
    Instr.wf Params.atReset (.rdIoapicRedir 0) = true ∧
    Instr.wf Params.atReset (.wrIoapicRedir 23 { destination := 0xFF }) = true := by decide

/-- For `IllegalWordsAreRefused`: a word of each kind; of the unnamed I/O APIC indices the first, 0x03
(0x4003 of V8), and the last, 0x0F (0x600F). -/
theorem witness_illegal_words :
    (0x8000 : Word16).extractLsb' 14 2 = 0b10 ∧ (0xC080 : Word16).extractLsb' 14 2 = 0b11 ∧
    (0x1080 : Word16).getLsbD 12 = true ∧
    ((0x0024 : Word16).extractLsb' 14 2 = 0b00 ∧
      ∀ r ∈ lapicRegs, r.slots.low ≠ .lapic ((0x0024 : Word16).extractLsb' 0 12)) ∧
    ((0x4110 : Word16).extractLsb' 14 2 = 0b01 ∧ (0x4110 : Word16).extractLsb' 8 4 ≠ 0) ∧
    ((0x4040 : Word16).extractLsb' 14 2 = 0b01 ∧
      Params.atReset.redirCount ≤ (((0x4040 : Word16).extractLsb' 0 8).toNat - 0x10) / 2 ∧
      0x10 ≤ ((0x4040 : Word16).extractLsb' 0 8).toNat) ∧
    ((0x2310 : Word16).extractLsb' 14 2 = 0b00 ∧ (0x2310 : Word16).extractLsb' 0 12 = 0x310) ∧
    ((0x4011 : Word16).extractLsb' 14 2 = 0b01 ∧
      ∃ n < 120, ((0x4011 : Word16).extractLsb' 0 8).toNat = 0x11 + 2 * n) ∧
    ((0x4003 : Word16).extractLsb' 14 2 = 0b01 ∧ 0x03 ≤ ((0x4003 : Word16).extractLsb' 0 12).toNat ∧
      ((0x4003 : Word16).extractLsb' 0 12).toNat ≤ 0x0F) ∧
    ((0x600F : Word16).extractLsb' 14 2 = 0b01 ∧ 0x03 ≤ ((0x600F : Word16).extractLsb' 0 12).toNat ∧
      ((0x600F : Word16).extractLsb' 0 12).toNat ≤ 0x0F) :=
  ⟨by decide, by decide, by decide, ⟨by decide, by decide⟩, ⟨by decide, by decide⟩,
    ⟨by decide, by decide, by decide⟩, ⟨by decide, by decide⟩, ⟨by decide, 0, by decide, by decide⟩,
    ⟨by decide, by decide, by decide⟩, by decide, by decide, by decide⟩

/-- A context with the request `w` on its port. -/
def requesting (w : Word16) : Context := { port := [{ word := w }] }

/-- For `StepRunsTheDecodedOperation`: with an empty agenda, and with context 1 next on it. -/
theorem witness_step_runs :
    (requesting 0x2300).CanAccept ∧ (requesting 0x2300).port = [{ word := 0x2300 }] ∧
    decode Params.atReset { word := 0x2300 } = .ok (.wrLapicIcr {}) ∧
    ({ State.reset with contexts := [requesting 0x2300] } : State).cur? = some (requesting 0x2300) ∧
    ({ State.reset with contexts := [{}, requesting 0x2300], agenda := [.run 1] } : State).contexts[1]? =
      some (requesting 0x2300) := by
  refine ⟨⟨rfl, rfl, rfl⟩, rfl, ?_, rfl, rfl⟩
  simp [decode, decodeReq, decodeReg, decodeLapicReg, lapicRegs, Reg.slots, Instr.ofRequest]

/-- Context 0 of `reading reg lo`. -/
def readingCtx (reg : Reg) (lo : Word32) : Context :=
  { inst := { phase := .busy, req := some ⟨reg, .read⟩, lo := some lo } }

/-- For `StepContinuesTheLatchedOperation`: an instance busy with the request of the operation. -/
theorem witness_step_continues :
    ({ reading .lapicId 0 with agenda := [.run 0] } : State).contexts[0]? = some (readingCtx .lapicId 0) ∧
    (readingCtx .lapicId 0).hung = false ∧ (readingCtx .lapicId 0).inst.phase = .busy ∧
    (readingCtx .lapicId 0).inst.req = some (Instr.request .rdLapicId) := ⟨rfl, rfl, rfl, rfl⟩

/-- For `IllegalWordLatchesUnknownRegister`. -/
theorem witness_illegal_step :
    ({ State.reset with contexts := [requesting 0x2310], agenda := [.run 0] } : State).contexts[0]? =
      some (requesting 0x2310) ∧
    (requesting 0x2310).CanAccept ∧ (requesting 0x2310).port = [{ word := 0x2310 }] ∧
    decodeReq Params.atReset 0x2310 = .error .noLapicRegister := by
  refine ⟨rfl, ⟨rfl, rfl, rfl⟩, rfl, ?_⟩
  simp [decodeReq, decodeReg, decodeLapicReg, lapicRegs, Reg.slots]

/-- For `IdleInstanceWaitsForARequest`. -/
theorem witness_idle :
    ({ State.reset with agenda := [.run 1] } : State).contexts[1]? = some ({} : Context) ∧
    ({} : Context).inst.phase = .idle ∧ ({} : Context).port = [] := ⟨rfl, rfl, rfl⟩

/-- For `ResetEventAbandonsEveryOperation`: a reset next on the agenda, a read in progress. -/
theorem witness_reset_event :
    ({ reading .lapicId 0 with agenda := [.reset] } : State).agenda = .reset :: [] := rfl

/-- For `FaultLatchIsSticky`: a faulted idle instance in a step that is no reset. -/
theorem witness_fault_latched :
    (∃ t, step { State.reset with contexts := [faulted], agenda := [.run 0] } = .next t) ∧
    ({ State.reset with contexts := [faulted], agenda := [.run 0] } : State).agenda.head? ≠ some .reset ∧
    ({ State.reset with contexts := [faulted] } : State).contexts[0]? = some faulted ∧
    faulted.inst.fault = some .readOnlyViolation ∧ faulted.inst.phase = .idle :=
  ⟨⟨_, rfl⟩, by decide, rfl, rfl, rfl⟩

/-- Context 0 with the low-slot write of an ICR write still to issue. -/
def staged : Context := ({} : Context).accepted ⟨.lapicIcr, .write⟩ [.wr (.lapic 0x300) 0x00000030]

/-- Context 0 has issued the high slot of an ICR write (95_test_vectors.md V4) and moves next. -/
def midWrite : State :=
  { State.reset with
    contexts := [staged, {}]
    history := [.bus ⟨0, .write, .lapic 0x310, 0x02000000⟩]
    agenda := [.run 0, .run 1] }

/-- For `BackendFaultLeavesTheInstanceStuck`: an access in flight, and an instance already stuck. -/
theorem witness_backend_fault :
    ({ midWrite with agenda := [.backendFault 0] } : State).contexts[0]? = some staged ∧
    staged.inst.phase = .busy ∧ staged.inst.pending ≠ [] ∧
    (∃ t, step { midWrite with contexts := [{ staged with hung := true }, {}] } = .next t) ∧
    ({ midWrite with contexts := [{ staged with hung := true }, {}] } : State).agenda.head? ≠
      some .reset :=
  ⟨rfl, rfl, by decide, ⟨_, rfl⟩, by decide⟩

/-- For `ATransitionLeavesOtherContextsAlone`, `ParametersNeverChange` and `HistoryOnlyGrowsAtItsEnd`. -/
theorem witness_step_of_one_context :
    midWrite.agenda = .run 0 :: [.run 1] ∧ (∃ t, step midWrite = .next t) ∧ (1 : Nat) ≠ 0 ∧
    midWrite.agenda.head? ≠ some .reset := ⟨rfl, ⟨_, rfl⟩, by decide, by decide⟩

/-- For `ResetMeetsTheInvariants`. -/
theorem witness_reset_parameters : Params.atReset.wf = true ∧ 0 < 2 := by decide

/-- For `EveryStepKeepsTheInvariant`, `NoStepStops` and `EveryTransitionBringsTheEndNearer`: an operation
in progress. -/
theorem witness_midWrite_inv : midWrite.Inv ∧ (∃ t, step midWrite = .next t) := by
  refine ⟨⟨rfl, by decide, ?_, ?_⟩, ⟨_, rfl⟩⟩
  · intro k hk
    simp only [midWrite, List.mem_cons, List.not_mem_nil, or_false] at hk
    rcases hk with rfl | rfl
    · refine ⟨⟨rfl, ⟨.lapicIcr, .write⟩, rfl, ⟨rfl, rfl⟩, ?_, rfl, rfl⟩, by simp [staged, Context.accepted]⟩
      exact ⟨[(.write, .lapic 0x310)], rfl⟩
    · exact ⟨⟨rfl, rfl, rfl, rfl⟩, by simp⟩
  · intro e he
    simp only [midWrite, List.mem_cons, List.not_mem_nil, or_false] at he
    rcases he with rfl | rfl <;> simp [Stimulus.InRange, midWrite]

/-- For `EveryTransitionBringsTheEndNearer`, with `witness_midWrite_inv`. -/
theorem witness_midWrite_busy :
    midWrite.agenda = .run 0 :: [.run 1] ∧ midWrite.contexts[0]? = some staged ∧ staged.hung = false ∧
    staged.inst.phase = .busy := ⟨rfl, rfl, rfl, rfl⟩

/-- For `EveryStepKeepsTheWriteOrder`, with `witness_midWrite_inv`: the high slot is written, the low slot
is what comes next. -/
theorem witness_midWrite_writeOrder : midWrite.WriteOrder := by
  have hp : IsPair (.lapic 0x300) (.lapic 0x310) := ⟨.lapicIcr, rfl, rfl⟩
  intro c k hk
  match c with
  | 0 =>
    have hk : k = staged := (Option.some.inj hk).symm
    subst hk
    refine ⟨⟨⟨fun h _ ⟨reg, hl, hh⟩ => ?_, fun q l hq => by cases hq⟩, trivial⟩, fun h => ⟨?_, ?_⟩⟩
    · cases reg <;> simp [Reg.slots] at hl hh
    · rintro ⟨reg, w, -, hr, hh, -⟩
      obtain rfl : reg = .lapicIcr := by simpa [staged, Context.accepted] using hr.symm
      obtain rfl : Addr.lapic 0x310 = h := by simpa [Reg.slots] using hh
      exact ⟨_, _, rfl, rfl, rfl, hp⟩
    · rintro ⟨e, l, he, -, rfl, -⟩
      obtain rfl : e = ⟨0, .write, .lapic 0x310, 0x02000000⟩ := (Option.some.inj he).symm
      exact ⟨.lapicIcr, _, rfl, rfl, rfl, rfl⟩
  | 1 =>
    have hk : k = {} := (Option.some.inj hk).symm
    subst hk
    exact ⟨trivial, fun h => ⟨fun ⟨_, _, hb, _⟩ => (by cases hb), fun ⟨_, _, he, _⟩ => (by cases he)⟩⟩
  | c + 2 => simp [midWrite] at hk

/-- For `OnlyIndexedSlotsAreAccessed` and `NoWriteEverReachesAReadOnlyRegister`, with
`witness_midWrite_inv`. -/
theorem witness_midWrite_history : midWrite.BusIndexed ∧ midWrite.NoReadOnlyWrite := by
  constructor
  · intro e he
    simp only [midWrite, List.mem_cons, List.not_mem_nil, or_false, Entry.bus.injEq] at he
    subst he
    exact ⟨by decide, .lapicIcr, rfl, .inr rfl⟩
  · intro e he _ reg hc
    simp only [midWrite, List.mem_cons, List.not_mem_nil, or_false, Entry.bus.injEq] at he
    subst he
    cases reg <;> simp_all [capability, Reg.slots, midWrite, State.reset, State.resetWith, Params.atReset]

/-- For `EveryWrittenWordHasItsReservedBitsFixed`, with `witness_step_of_one_context`. -/
theorem witness_midWrite_reservedBits : midWrite.ReservedBitsFixed := by
  have h300 : ReservedBitsFixed midWrite.params (.lapic 0x300) 0x00000030 := by
    intro reg
    cases reg <;> simp [Reg.slots]
    decide
  have h310 : ReservedBitsFixed midWrite.params (.lapic 0x310) 0x02000000 := by
    intro reg
    cases reg <;> simp [Reg.slots]
    decide
  constructor
  · intro k hk a w hw
    simp only [midWrite, List.mem_cons, List.not_mem_nil, or_false] at hk
    rcases hk with rfl | rfl
    · simp only [staged, Context.accepted, List.mem_cons, List.not_mem_nil, or_false,
        BusOp.wr.injEq] at hw
      obtain ⟨rfl, rfl⟩ := hw
      exact h300
    · cases hw
  · intro e he _
    simp only [midWrite, List.mem_cons, List.not_mem_nil, or_false, Entry.bus.injEq] at he
    subst he
    exact h310

/-- For `TwoIcrWritesMayInterleaveTheirSlots`. -/
theorem witness_two_contexts :
    State.reset.contexts = ({} : Context) :: ({} : Context) :: [] ∧ Context.CanAccept {} :=
  ⟨rfl, rfl, rfl, rfl⟩

/-- For `DecodeOfEncodeIsTheValue`: identifiers at the edge of each width, and a divisor that encodes. -/
theorem witness_codec_values :
    ApicId.wf .four { id := 0xF } = true ∧ ApicId.wf .eight { id := 0xFF } = true ∧
    ArbId.wf .four { arbId := 0xF } = true ∧ ArbId.wf .eight { arbId := 0xFF } = true ∧
    divisorWord 128 = some 0xA := by decide

/-- For `EncodeOfDecodeKeepsTheFieldsOnly`: words of the valid domain of the DFR, reserved bits mixed. -/
theorem witness_dfr_words : (decodeDestFormat 0xF1234567).toOption = some .flat ∧
    (decodeDestFormat 0x0ABCDEF0).toOption = some .cluster := by decide

/-- For `ReservedBitsNeverChangeADecodedValue`: different words that agree under every mask of the
statement. -/
theorem witness_reserved_bits :
    (0x00800800 : Word32) ≠ 0x00000800 ∧
    (∀ m ∈ ([0xFF000000, 0x0F000000, 0x000000FF, 0xF0000000, 0x000013FF, 0x0007F7FF, 0x0001F7FF,
      0x0000000B] : List Word32), 0x00800800 &&& m = 0x00000800 &&& m) ∧
    (∀ m ∈ ([0x01FF00FF, 0x00FF00FF] : List Word32),
      (0x02000800 : Word32) ≠ 0 ∧ 0x02000800 &&& m = (0 : Word32) &&& m) ∧
    (∀ m ∈ ([0xFF000000000CDFFF, 0xFF0000000001FFFF] : List Word64),
      (0x0000000100000000 : Word64) ≠ 0 ∧ 0x0000000100000000 &&& m = (0 : Word64) &&& m) := by simp

/-- For `EncodedWordsKeepToTheirMask`: `witness_codec_values` gives the divisor. For
`CapabilityCheckAndResultNumbers`: each side of each equivalence is taken. -/
theorem witness_capabilities :
    capCheck .readOnly .write = some .readOnlyViolation ∧
    capCheck .writeOnly .read = some .writeOnlyViolation ∧ capCheck .readWrite .write = none ∧
    capability Params.atReset .lapicPpr = .readOnly ∧ capability Params.atReset .lapicApr = .readOnly ∧
    capability { Params.atReset with aprCapability := .readWrite } .lapicApr = .readWrite := by decide

end Sys2Proof.Tests
end

section
/-!
PROOFS. The statements about the state (10_state.md): what every step keeps, that no step stops, and the
reset state. The facts about the accesses of an operation and about consistent contexts come first; each
statement about a step is `step_cases` with one of them per case.
-/

namespace Sys2Proof.Machine

/-! ### The accesses of an operation -/

/-- The accesses of an operation, in some order: its low slot and, where there is one, its high slot
(43_split_sequencer.md R171, R172). -/
theorem targets_perm (p : Params) (r : Request) :
    (targets p r).Perm ((r.reg.slots.low :: r.reg.slots.high.toList).map (Prod.mk r.dir)) := by
  obtain ⟨reg, dir⟩ := r
  unfold targets
  cases reg.slots.high with
  | none => cases dir <;> exact .refl _
  | some h =>
    cases dir with
    | write => exact .swap _ _ _
    | read =>
      cases p.splitReadOrder with
      | lowFirst => exact .refl _
      | highFirst => exact .swap _ _ _

theorem mem_targets {p : Params} {r : Request} {d : Dir} {a : Addr} :
    (d, a) ∈ targets p r ↔ d = r.dir ∧ (a = r.reg.slots.low ∨ r.reg.slots.high = some a) := by
  rw [(targets_perm p r).mem_iff]
  simp [and_or_left, eq_comm, and_comm]

/-- No slot is accessed twice by one operation. -/
theorem nodup_targets (p : Params) (r : Request) : (targets p r).Nodup := by
  rw [(targets_perm p r).nodup_iff]
  refine .map (Prod.mk_right_injective r.dir) (List.nodup_cons.mpr ⟨fun h => ?_, ?_⟩)
  · exact low_ne_high (Option.mem_toList.mp h) rfl
  · exact Option.toList_nodup _

/-- A read is known by its direction and its slot. -/
theorem read_mem_map_target {a : Addr} {l : List BusOp} :
    (Dir.read, a) ∈ l.map BusOp.target ↔ BusOp.rd a ∈ l := by
  rw [List.mem_map]
  constructor
  · rintro ⟨op, hop, ht⟩
    cases op with
    | rd b => cases ht; exact hop
    | wr b w => cases ht
  · exact fun h => ⟨_, h, rfl⟩

/-! ### Latches -/

theorem Instance.latchesMatch_write {x : Instance} {r : Request} (hd : r.dir = .write) :
    x.LatchesMatch r ↔ x.lo = none ∧ x.hi = none := by
  simp only [Instance.LatchesMatch, hd]

theorem Instance.latchesMatch_read {x : Instance} {r : Request} (hd : r.dir = .read) :
    x.LatchesMatch r ↔ (x.lo.isSome ↔ BusOp.rd r.reg.slots.low ∉ x.pending) ∧
      (x.hi.isSome ↔ ∃ h, r.reg.slots.high = some h ∧ BusOp.rd h ∉ x.pending) := by
  simp only [Instance.LatchesMatch, hd]

/-- Right after Accept every access is still to come and no latch is filled. -/
theorem Instance.latchesMatch_of_targets {p : Params} {x : Instance} {r : Request}
    (hl : x.pending.map BusOp.target = targets p r) (hlo : x.lo = none) (hhi : x.hi = none) :
    x.LatchesMatch r := by
  cases hd : r.dir with
  | write => exact (latchesMatch_write hd).mpr ⟨hlo, hhi⟩
  | read =>
    have hmem : ∀ a, a = r.reg.slots.low ∨ r.reg.slots.high = some a → BusOp.rd a ∈ x.pending := by
      intro a ha
      rw [← read_mem_map_target, hl, mem_targets]
      exact ⟨hd.symm, ha⟩
    rw [latchesMatch_read hd]
    constructor
    · simp [hlo, hmem _ (.inl rfl)]
    · simpa [hhi] using fun h hh => hmem h (.inr hh)

/-- With every access issued the latches of a read are filled. -/
theorem Instance.LatchesMatch.filled {x : Instance} {r : Request} (hm : x.LatchesMatch r)
    (ho : x.pending = []) (hd : r.dir = .read) :
    x.lo.isSome = true ∧ (r.reg.slots.high.isSome = true → x.hi.isSome = true) := by
  obtain ⟨hlo, hhi⟩ := (latchesMatch_read hd).mp hm
  simp only [ho, List.not_mem_nil, not_false_eq_true, iff_true, and_true] at hlo hhi
  exact ⟨hlo, fun h => hhi.mpr (Option.isSome_iff_exists.mp h)⟩

/-! ### Issue, field by field -/

@[simp] theorem Instance.issued_phase (x : Instance) (r : Request) (op : BusOp) (rest : List BusOp)
    (d : Word32) : (x.issued r op rest d).phase = x.phase := by
  unfold Instance.issued; repeat' split
  all_goals rfl

@[simp] theorem Instance.issued_fault (x : Instance) (r : Request) (op : BusOp) (rest : List BusOp)
    (d : Word32) : (x.issued r op rest d).fault = x.fault := by
  unfold Instance.issued; repeat' split
  all_goals rfl

@[simp] theorem Instance.issued_req (x : Instance) (r : Request) (op : BusOp) (rest : List BusOp)
    (d : Word32) : (x.issued r op rest d).req = x.req := by
  unfold Instance.issued; repeat' split
  all_goals rfl

@[simp] theorem Instance.issued_pending (x : Instance) (r : Request) (op : BusOp) (rest : List BusOp)
    (d : Word32) : (x.issued r op rest d).pending = rest := by
  unfold Instance.issued; repeat' split
  all_goals rfl

theorem Instance.issued_rd_high {x : Instance} {r : Request} {a : Addr} {rest : List BusOp} {d : Word32}
    (h : r.reg.slots.high = some a) :
    x.issued r (.rd a) rest d = { x with hi := some d, pending := rest } := by
  simp only [Instance.issued, if_pos h]

theorem Instance.issued_rd_low {x : Instance} {r : Request} {rest : List BusOp} {d : Word32} :
    x.issued r (.rd r.reg.slots.low) rest d = { x with lo := some d, pending := rest } := by
  simp only [Instance.issued, if_neg fun h => low_ne_high h rfl]

/-- Issue fills the latch of the access it issues and no other (43_split_sequencer.md R177 (2)). -/
theorem Instance.LatchesMatch.issued {p : Params} {x : Instance} {r : Request} {op : BusOp}
    {rest : List BusOp} (hm : x.LatchesMatch r) (ho : x.pending = op :: rest)
    (hs : x.pending.map BusOp.target <:+ targets p r) (d : Word32) :
    (x.issued r op rest d).LatchesMatch r := by
  rw [ho, List.map_cons] at hs
  have hop : op.target ∈ targets p r := hs.subset List.mem_cons_self
  have hnd : op.target ∉ rest.map BusOp.target :=
    (List.nodup_cons.mp ((nodup_targets p r).sublist hs.sublist)).1
  cases op with
  | wr a w =>
    obtain ⟨hd, -⟩ := mem_targets.mp hop
    have hempty : x.lo = none ∧ x.hi = none := (latchesMatch_write hd.symm).mp hm
    exact (latchesMatch_write hd.symm).mpr hempty
  | rd a =>
    obtain ⟨hd, ha⟩ := mem_targets.mp hop
    have hnot : BusOp.rd a ∉ rest := fun h => hnd (read_mem_map_target.mpr h)
    obtain ⟨hlo, hhi⟩ := (latchesMatch_read hd.symm).mp hm
    rw [latchesMatch_read hd.symm]
    rcases ha with rfl | ha
    · have hother : ∀ h, r.reg.slots.high = some h → BusOp.rd h ≠ .rd r.reg.slots.low :=
        fun h hh e => low_ne_high hh (BusOp.rd.inj e).symm
      rw [issued_rd_low]
      refine ⟨by simpa using hnot, hhi.trans ?_⟩
      simp only [ho, List.mem_cons, not_or]
      exact exists_congr fun h => and_congr_right fun hh => and_iff_right (hother h hh)
    · have hother : BusOp.rd r.reg.slots.low ≠ .rd a := fun e => low_ne_high ha (BusOp.rd.inj e)
      rw [issued_rd_high ha]
      refine ⟨hlo.trans ?_, by simpa [ha] using hnot⟩
      simp only [ho, List.mem_cons, not_or]
      exact and_iff_right hother

/-! ### Consistent contexts -/

theorem Instance.consistent_idle {p : Params} {x : Instance} (h : x.phase = .idle) :
    x.Consistent p ↔ x.req = none ∧ x.pending = [] ∧ x.lo = none ∧ x.hi = none := by
  simp only [Instance.Consistent, h]

theorem Instance.consistent_busy {p : Params} {x : Instance} (h : x.phase = .busy) :
    x.Consistent p ↔ x.fault = none ∧ ∃ r, x.req = some r ∧ Admitted p r ∧
      x.pending.map BusOp.target <:+ targets p r ∧ x.LatchesMatch r := by
  simp only [Instance.Consistent, h]

/-- A context in its reset state is consistent, whatever is on its port (10_state.md R31). -/
theorem Context.consistent_reset (p : Params) (port : List Offer) :
    ({ port := port } : Context).Consistent p :=
  ⟨(Instance.consistent_idle rfl).mpr ⟨rfl, rfl, rfl, rfl⟩, nofun⟩

/-- RawAccess may fault on any access in flight (60_exceptions.md R309). -/
theorem Context.Consistent.hang {p : Params} {k : Context} (hk : k.Consistent p)
    (hp : k.inst.phase = .busy) (ho : k.inst.pending ≠ []) :
    ({ k with hung := true } : Context).Consistent p :=
  ⟨hk.1, fun _ => ⟨hp, ho⟩⟩

/-- A context that can accept holds nothing of an operation. -/
theorem Context.Consistent.of_canAccept {p : Params} {k : Context} (hk : k.Consistent p)
    (ha : k.CanAccept) :
    k.inst.req = none ∧ k.inst.pending = [] ∧ k.inst.lo = none ∧ k.inst.hi = none := by
  obtain ⟨-, hidle, -⟩ := ha
  exact (Instance.consistent_idle hidle).mp hk.1

/-- A fault latched in phase Idle leaves a context consistent, whatever is then on its port
(60_exceptions.md R307). -/
theorem Context.Consistent.latch {p : Params} {k : Context} (hk : k.Consistent p) (ha : k.CanAccept)
    (f : FatalCode) (port : List Offer) :
    ({ k.latched f with port := port } : Context).Consistent p := by
  have hidle : (k.latched f).inst.phase = .idle := ha.2.1
  exact ⟨(Instance.consistent_idle hidle).mpr (hk.of_canAccept ha), hk.2⟩

/-- Every transition keeps its context consistent (43_split_sequencer.md R177). -/
theorem Moved.keeps_consistent {p : Params} {c : Nat} {k k' : Context} {new : List Entry}
    (h : Moved p c k k' new) (hk : k.Consistent p) : k'.Consistent p := by
  cases h with
  | stays => exact hk
  | illegal o rest e ha hp hd => exact hk.latch ha _ rest
  | violation o rest r f ha hp hd hf => exact hk.latch ha f rest
  | recoverable o rest r e ha hp hd hc => exact hk
  | accepts o rest r l ha hp hd hc hl =>
    obtain ⟨-, -, hlo, hhi⟩ := hk.of_canAccept ha
    obtain ⟨hh, -, hf⟩ := ha
    refine ⟨(Instance.consistent_busy rfl).mpr ⟨hf, r, rfl, ⟨decodeReq_wf hd, hc⟩, ?_, ?_⟩, ?_⟩
    · exact hl ▸ List.suffix_rfl
    · exact Instance.latchesMatch_of_targets hl hlo hhi
    · exact fun hung => absurd (hh.symm.trans hung) nofun
  | issues r op rest d hh hp hr ho =>
    obtain ⟨hf, r', hr', hadm, hs, hm⟩ := (Instance.consistent_busy hp).mp hk.1
    obtain rfl : r = r' := Option.some.inj (hr.symm.trans hr')
    have hrest : rest.map BusOp.target <:+ targets p r :=
      (List.suffix_cons op.target _).trans (by simpa [ho] using hs)
    refine ⟨(Instance.consistent_busy (by simpa using hp)).mpr
      ⟨by simpa using hf, r, by simpa using hr, hadm, by simpa using hrest, hm.issued ho hs d⟩, ?_⟩
    exact fun hung => absurd (hh.symm.trans hung) nofun
  | completes r code payload hh hp hr ho =>
    exact ⟨(Instance.consistent_idle rfl).mpr ⟨rfl, ho, rfl, rfl⟩,
      fun hung => absurd (hh.symm.trans hung) nofun⟩

/-! ### The invariant -/

theorem State.Inv.ctx_lt {s : State} (hs : s.Inv) : s.ctx < s.contexts.length := by
  obtain ⟨-, hc, -, -⟩ := hs
  exact hc

theorem State.Inv.consistent {s : State} (hs : s.Inv) {c : Nat} {k : Context}
    (hk : s.contexts[c]? = some k) : k.Consistent s.params := by
  obtain ⟨-, -, hks, -⟩ := hs
  exact hks k (List.mem_of_getElem? hk)

theorem State.Inv.inRange {s : State} (hs : s.Inv) {e : Stimulus} {more : List Stimulus}
    (ha : s.agenda = e :: more) : e.InRange s.contexts.length := by
  obtain ⟨-, -, -, hag⟩ := hs
  exact hag e (ha ▸ List.mem_cons_self)

/-- The invariant after a replacement of one context by a consistent one and the choice of the context
that moves, where the agenda has not grown. -/
theorem State.Inv.of_set {s t : State} {c : Nat} {k : Context} (hs : s.Inv)
    (hp : t.params = s.params) (hx : t.contexts = s.contexts.set c k) (hk : k.Consistent s.params)
    (hc : t.ctx < s.contexts.length) (ha : t.agenda ⊆ s.agenda) : t.Inv := by
  obtain ⟨hwf, -, hks, hag⟩ := hs
  have hlen : t.contexts.length = s.contexts.length := by simp [hx]
  refine ⟨hp ▸ hwf, hlen ▸ hc, fun q hq => ?_, fun e he => hlen ▸ hag e (ha he)⟩
  rw [hp]
  rw [hx] at hq
  rcases List.mem_or_eq_of_mem_set hq with hq | rfl
  · exact hks q hq
  · exact hk

/-- A stimulus used up leaves the invariant. -/
theorem State.Inv.of_agenda_cons {s : State} {e : Stimulus} {more : List Stimulus} (hs : s.Inv)
    (ha : s.agenda = e :: more) : ({ s with agenda := more } : State).Inv := by
  obtain ⟨hwf, hc, hks, hag⟩ := hs
  exact ⟨hwf, hc, hks, fun e' he => hag e' (ha ▸ List.mem_cons_of_mem e he)⟩

/-- A reset leaves the invariant. -/
theorem State.Inv.takeReset {s : State} (hs : s.Inv) : (Machine.takeReset s).Inv := by
  obtain ⟨hwf, hc, -, hag⟩ := hs
  refine ⟨hwf, by simpa using hc, fun k hk => ?_, fun e he => by simpa using hag e he⟩
  obtain ⟨q, -, rfl⟩ := List.mem_map.mp hk
  exact Context.consistent_reset s.params q.port

/-- The choice of an existing context leaves the invariant. -/
theorem State.Inv.with_ctx {s : State} (hs : s.Inv) {c : Nat} (hc : c < s.contexts.length) :
    ({ s with ctx := c } : State).Inv := by
  obtain ⟨hwf, -, hks, hag⟩ := hs
  exact ⟨hwf, hc, hks, hag⟩

/-! ### Progress -/

/-- Under the invariant the current context exists and is consistent. -/
theorem State.Inv.exists_cur {s : State} (hs : s.Inv) :
    ∃ k, s.cur? = some k ∧ k.Consistent s.params := by
  have hcur : s.cur? = some (s.contexts[s.ctx]'hs.ctx_lt) := List.getElem?_eq_getElem hs.ctx_lt
  exact ⟨_, hcur, hs.consistent hcur⟩

/-- A request on the port of a context that can accept is answered or accepted. -/
theorem acceptOffer_next {s : State} {k : Context} (hc : s.cur? = some k) (ha : k.CanAccept) (o : Offer)
    (rest : List Offer) : ∃ t, acceptOffer o rest k s = .next t := by
  unfold acceptOffer
  cases decode s.params o with
  | error e => exact ⟨_, rfl⟩
  | ok i =>
    obtain ⟨ops, fin, he, -⟩ := exec_operates i (s.setCur { k with port := rest })
    exact ⟨_, he.trans (operate_idle (State.cur?_setCur hc _) ha)⟩

/-- A busy context issues or completes: at Complete every latch its result needs is filled
(10_state.md R23). -/
theorem exec_busy_next {s : State} {k : Context} {r : Request} (hc : s.cur? = some k)
    (hh : k.hung = false) (hp : k.inst.phase = .busy) (hr : k.inst.req = some r)
    (hm : k.inst.LatchesMatch r) (v : ValuePort) : ∃ t, exec (Instr.ofRequest r v) s = .next t := by
  obtain ⟨ops, fin, he, -, hfin⟩ := exec_operates (Instr.ofRequest r v) s
  rw [ofRequest_request] at he hfin
  cases ho : k.inst.pending with
  | cons op rest => exact ⟨_, he.trans (operate_issue hc hh hp hr ho)⟩
  | nil =>
    obtain ⟨res, hres⟩ := hfin k.inst (hm.filled ho)
    exact ⟨_, he.trans (operate_complete hc hh hp hr ho hres)⟩

/-- A transition of a consistent context answers a next state. -/
theorem State.Inv.transition_next {s : State} (hs : s.Inv) : ∃ t, transition s = .next t := by
  obtain ⟨k, hc, hk⟩ := hs.exists_cur
  unfold transition
  simp only [hc]
  cases hh : k.hung with
  | true => exact ⟨s, rfl⟩
  | false =>
    cases hp : k.inst.phase with
    | busy =>
      obtain ⟨-, r, hr, -, -, hm⟩ := (Instance.consistent_busy hp).mp hk.1
      simpa [hr] using exec_busy_next hc hh hp hr hm {}
    | idle =>
      by_cases hf : k.inst.fault = none
      · cases hport : k.port with
        | nil => exact ⟨s, by simp [hf]⟩
        | cons o rest => simpa [hf] using acceptOffer_next hc ⟨hh, hp, hf⟩ o rest
      · exact ⟨s, by simp [hf]⟩

/-- A fault of RawAccess on an existing context answers a next state. -/
theorem backendFault_next {s : State} {c : Nat} (hc : c < s.contexts.length) :
    ∃ t, backendFault c s = .next t := by
  simp only [backendFault, List.getElem?_eq_getElem hc]
  split
  · exact ⟨_, rfl⟩
  · exact ⟨_, rfl⟩

/-! ### The reset state -/

theorem eq_of_mem_resetWith {p : Params} {n : Nat} {k : Context}
    (h : k ∈ (State.resetWith p n).contexts) : k = {} :=
  List.eq_of_mem_replicate h

theorem resetWith_inv {p : Params} {n : Nat} (hp : p.wf = true) (hn : 0 < n) :
    (State.resetWith p n).Inv := by
  refine ⟨hp, by simpa [State.resetWith] using hn, fun k hk => ?_, nofun⟩
  rw [eq_of_mem_resetWith hk]
  exact Context.consistent_reset p []

/-- An idle context has no write of a low slot left to issue. -/
theorem Context.not_staged_of_idle {k : Context} (h : k.inst.phase = .idle) (a : Addr) : ¬ k.Staged a := by
  rintro ⟨reg, w, hb, -⟩
  exact absurd (h.symm.trans hb) nofun

theorem resetWith_writeOrder (p : Params) (n : Nat) : (State.resetWith p n).WriteOrder := by
  intro c k hk
  obtain rfl := eq_of_mem_resetWith (List.mem_of_getElem? hk)
  refine ⟨trivial, fun h => iff_of_false (Context.not_staged_of_idle rfl h) ?_⟩
  rintro ⟨e, l, he, -⟩
  cases he

theorem resetWith_reservedBitsFixed (p : Params) (n : Nat) :
    (State.resetWith p n).ReservedBitsFixed := by
  refine ⟨fun k hk a w hw => ?_, nofun⟩
  rw [eq_of_mem_resetWith hk] at hw
  cases hw

end Sys2Proof.Machine

/-! ### The statements -/

open Sys2Proof Sys2Proof.Machine

/-- Settles O42: one context moves to a consistent one (`Moved.keeps_consistent`), or RawAccess sticks it,
or all are reset. -/
theorem everyStepKeepsTheInvariant : Obligations.EveryStepKeepsTheInvariant := by
  intro s t hs h
  rcases step_cases h with ⟨c, more, k, k', new, hag, hm, hf, hc⟩ | ⟨c, more, k, hag, hk, ht⟩ |
    ⟨more, hag, rfl⟩
  · have hk : k.Consistent s.params := hs.consistent hf.here
    have hlt : c < s.contexts.length := (List.getElem?_eq_some_iff.mp hf.here).1
    have hmore : more ⊆ s.agenda := by
      rcases hag with ⟨-, rfl, -⟩ | hag
      · exact List.nil_subset _
      · exact hag ▸ List.subset_cons_self _ _
    exact hs.of_set hf.params hf.contexts (hm.keeps_consistent hk) (hc ▸ hlt) (hf.agenda ▸ hmore)
  · rcases ht with rfl | ⟨hp, ho, rfl⟩
    · exact hs.of_agenda_cons hag
    · have hs' := hs.of_agenda_cons hag
      exact hs'.of_set rfl rfl ((hs.consistent hk).hang hp ho) hs'.ctx_lt (List.Subset.refl _)
  · exact (hs.of_agenda_cons hag).takeReset

/-- Settles O39: no case of `step_cases` writes the parameters, and each replaces contexts in place. -/
theorem parametersNeverChange : Obligations.ParametersNeverChange := by
  intro s t h
  have hkept : t.params = s.params ∧ t.contexts.length = s.contexts.length := by
    rcases step_cases h with ⟨c, more, k, k', new, -, -, hf, -⟩ | ⟨c, more, k, -, -, rfl | ⟨-, -, rfl⟩⟩ |
      ⟨more, -, rfl⟩
    · exact ⟨hf.params, by simp [hf.contexts]⟩
    · exact ⟨rfl, rfl⟩
    · exact ⟨rfl, by simp⟩
    · exact ⟨rfl, by simp⟩
  obtain ⟨hp, hlen⟩ := hkept
  exact ⟨hp, hlen, fun r => by rw [hp]⟩

/-- Settles O43: the stimulus names a context that exists, and a consistent context has its latches. -/
theorem noStepStops : Obligations.NoStepStops := by
  intro s hs
  unfold step runAgenda
  cases ha : s.agenda with
  | nil => exact hs.transition_next
  | cons e more =>
    have hs' := hs.of_agenda_cons ha
    have he : e.InRange s.contexts.length := hs.inRange ha
    cases e with
    | run c => exact (hs'.with_ctx he).transition_next
    | backendFault c => exact backendFault_next he
    | reset => exact ⟨_, rfl⟩

/-- Settles O34: every context of the reset state is the default one. -/
theorem resetLeavesEveryInstanceIdle : Obligations.ResetLeavesEveryInstanceIdle := by
  intro p n
  refine ⟨rfl, List.length_replicate, rfl, fun k hk => ?_⟩
  rw [eq_of_mem_resetWith hk]

/-- Settles O41: every context is idle and the history is empty. -/
theorem resetMeetsTheInvariants : Obligations.ResetMeetsTheInvariants := by
  intro p n hp hn
  exact ⟨resetWith_inv hp hn, resetWith_writeOrder p n, nofun, nofun, resetWith_reservedBitsFixed p n⟩

/-- Settles O59: a bus read takes the head of the script and leaves the rest; with no script the word is
the free draw. -/
theorem anyWordCanAnswerABusRead : Obligations.AnyWordCanAnswerABusRead :=
  fun _ _ => ⟨rfl, rfl, rfl⟩
end

section
/-!
PROOFS. The statements about the bus history (20_memory.md): it grows only at its end, and holds only
accesses of existing contexts to slots of the register index. What a step does to the history and which
events a transition appends are said first, once each.
-/

namespace Sys2Proof.Machine

/-! ### What a step does to the history -/

/-- A step empties the history (a reset), keeps it, or appends what one transition of an existing context
appends (20_memory.md R46). -/
theorem step_history {s t : State} (h : step s = .next t) :
    (s.agenda.head? = some .reset ∧ t.history = []) ∨
      ∃ new, t.history = s.history ++ new ∧
        (new = [] ∨ ∃ c k k', s.contexts[c]? = some k ∧ Moved s.params c k k' new) := by
  rcases step_cases h with ⟨c, more, k, k', new, -, hm, hf, -⟩ | ⟨c, more, k, -, -, rfl | ⟨-, -, rfl⟩⟩ |
    ⟨more, ha, rfl⟩
  · exact .inr ⟨new, hf.history, .inr ⟨c, k, k', hf.here, hm⟩⟩
  · exact .inr ⟨[], (List.append_nil _).symm, .inl rfl⟩
  · exact .inr ⟨[], (List.append_nil _).symm, .inl rfl⟩
  · exact .inl ⟨congrArg List.head? ha, rfl⟩

/-- A transition appends one bus event, one response, or nothing (43_split_sequencer.md R177). -/
theorem Moved.length_le_one {p : Params} {c : Nat} {k k' : Context} {new : List Entry}
    (h : Moved p c k k' new) : new.length ≤ 1 := by
  cases h with
  | stays | accepts => exact Nat.zero_le 1
  | illegal | violation | recoverable | issues | completes => exact Nat.le_refl 1

/-! ### The events a transition appends -/

/-- The event of an access has the access's direction and slot. -/
theorem BusOp.event_target (c : Nat) (d : Word32) (op : BusOp) :
    ((op.event c d).dir, (op.event c d).addr) = op.target := by
  cases op <;> rfl

/-- A bus event of a consistent context is its own, and an access of an admitted operation: only Issue
appends one, and it issues the head of `pending` (43_split_sequencer.md R177 (2)). -/
theorem Moved.event_admitted {p : Params} {c : Nat} {k k' : Context} {new : List Entry} {e : BusEvent}
    (h : Moved p c k k' new) (hk : k.Consistent p) (he : Entry.bus e ∈ new) :
    e.ctx = c ∧ ∃ r, Admitted p r ∧ (e.dir, e.addr) ∈ targets p r := by
  cases h with
  | stays | accepts => cases he
  | illegal | violation | recoverable | completes => exact absurd (List.mem_singleton.mp he) nofun
  | issues r op rest d hh hp hr ho =>
    obtain rfl : e = op.event c d := Entry.bus.inj (List.mem_singleton.mp he)
    obtain ⟨-, q, -, hadm, hsuffix, -⟩ := (Instance.consistent_busy hp).mp hk.1
    have hop : op.target ∈ targets p q := hsuffix.subset (by simp [ho])
    exact ⟨op.event_ctx c d, q, hadm, (op.event_target c d).symm ▸ hop⟩

/-- An access of an admitted operation is to a slot of an existing register (20_memory.md R40). -/
theorem Admitted.slot_indexed {p : Params} {r : Request} {d : Dir} {a : Addr} (hr : Admitted p r)
    (ha : (d, a) ∈ targets p r) :
    ∃ reg : Reg, reg.wf p = true ∧ (a = reg.slots.low ∨ reg.slots.high = some a) := by
  obtain ⟨hwf, -⟩ := hr
  obtain ⟨-, hslot⟩ := mem_targets.mp ha
  exact ⟨r.reg, hwf, hslot⟩

end Sys2Proof.Machine

/-! ### The statements -/

open Sys2Proof Sys2Proof.Machine

/-- Settles O40: what a step without a reset appends is what at most one transition appends. -/
theorem historyOnlyGrowsAtItsEnd : Obligations.HistoryOnlyGrowsAtItsEnd := by
  intro s t h hreset
  rcases step_history h with ⟨hr, -⟩ | ⟨new, happ, hm⟩
  · exact absurd hr hreset
  · refine ⟨new, happ, ?_⟩
    rcases hm with rfl | ⟨c, k, k', -, hm⟩
    · exact Nat.zero_le 1
    · exact hm.length_le_one

/-- Settles O46: an event of the old history is as before, since no step changes the parameters or the
number of contexts, and a new one is an access of an admitted operation. -/
theorem onlyIndexedSlotsAreAccessed : Obligations.OnlyIndexedSlotsAreAccessed := by
  intro s t hs hb h e he
  obtain ⟨hp, hlen, -⟩ := parametersNeverChange s t h
  rw [hp, hlen]
  rcases step_history h with ⟨-, hnil⟩ | ⟨new, happ, hm⟩
  · rw [hnil] at he
    cases he
  · rw [happ, List.mem_append] at he
    rcases he with hold | hnew
    · exact hb e hold
    · rcases hm with rfl | ⟨c, k, k', hk, hm⟩
      · cases hnew
      · obtain ⟨hctx, r, hadm, htarget⟩ := hm.event_admitted (hs.consistent hk) hnew
        have hlt : c < s.contexts.length := (List.getElem?_eq_some_iff.mp hk).1
        exact ⟨hctx ▸ hlt, hadm.slot_indexed htarget⟩
end

section
/-!
PROOFS. The statements about the encoding (30_encoding.md): the decoder accepts exactly the words of the
registers that exist, so it gives back every operation offered and refuses every other word. Each part of
the decoder is said once as an equivalence, in the order of the definitions; no statement unfolds it again.
-/

namespace Sys2Proof.Machine

/-! ### The fields of a request word -/

/-- A concatenation is known by its two parts. -/
theorem append_eq_iff {n m : Nat} {x : BitVec n} {y : BitVec m} {w : BitVec (n + m)} :
    x ++ y = w ↔ x = w.extractLsb' m n ∧ y = w.extractLsb' 0 m := by
  constructor
  · rintro rfl
    exact ⟨BitVec.extractLsb'_append_eq_left.symm, BitVec.extractLsb'_append_eq_right.symm⟩
  · rintro ⟨rfl, rfl⟩
    exact BitVec.extractLsb'_append_extractLsb'

/-- A slice of a slice is a slice. -/
theorem extractLsb'_slice {n : Nat} (w : BitVec n) {a l s m : Nat} (h : s + m ≤ l) :
    (w.extractLsb' a l).extractLsb' s m = w.extractLsb' (a + s) m := by
  ext i hi
  simp [show s + i < l by omega, Nat.add_assoc]

/-- A one-bit slice is known by its bit. -/
theorem eq_extractLsb'_one_iff {n : Nat} {w : BitVec n} {x : BitVec 1} {j : Nat} :
    x = w.extractLsb' j 1 ↔ w.getLsbD j = x.getLsbD 0 := by
  constructor
  · rintro rfl
    simp
  · intro h
    ext i hi
    obtain rfl : i = 0 := Nat.lt_one_iff.mp hi
    simpa using h.symm

/-- A word is known by its fields `sp[15:14] dir[13] z[12] idx[11:0]` (30_encoding.md R61). -/
theorem fields_append_eq_iff {sp : BitVec 2} {d z : BitVec 1} {idx : BitVec 12} {w : Word16} :
    sp ++ d ++ z ++ idx = w ↔
      sp = w.extractLsb' 14 2 ∧ d = w.extractLsb' 13 1 ∧ z = w.extractLsb' 12 1 ∧
        idx = w.extractLsb' 0 12 := by
  rw [append_eq_iff (n := 4), append_eq_iff (n := 3), append_eq_iff (n := 2)]
  simp only [extractLsb'_slice, Nat.reduceAdd, Nat.reduceLeDiff, and_assoc]

/-- The direction that bit 13 of a word names (30_encoding.md R61). -/
def wordDir (w : Word16) : Dir := if w.getLsbD 13 then .write else .read

/-- The direction bit of an operation is a word's bit 13 where the word names that direction. -/
theorem bit_eq_extractLsb'_iff {d : Dir} {w : Word16} :
    d.bit = w.extractLsb' 13 1 ↔ d = wordDir w := by
  rw [eq_extractLsb'_one_iff, wordDir]
  cases w.getLsbD 13 <;> cases d <;> decide

/-- The word of a request is known by the request's fields (30_encoding.md R61). -/
theorem encode_eq_iff {r : Request} {w : Word16} :
    r.encode = w ↔ r.reg.slots.low.fields = (w.extractLsb' 14 2, w.extractLsb' 0 12) ∧
      w.getLsbD 12 = false ∧ r.dir = wordDir w := by
  have hz : (0 : BitVec 1) = w.extractLsb' 12 1 ↔ w.getLsbD 12 = false := eq_extractLsb'_one_iff
  rw [Request.encode, fields_append_eq_iff, bit_eq_extractLsb'_iff, hz, Prod.ext_iff]
  tauto

/-- The fields of a Local APIC slot. -/
theorem fields_eq_lapic_iff {a : Addr} {idx : BitVec 12} : a.fields = (0b00, idx) ↔ a = .lapic idx := by
  cases a <;> simp [Addr.fields]

/-- The fields of an I/O APIC slot: its index has 8 bits. -/
theorem fields_eq_ioapic_iff {a : Addr} {idx : BitVec 12} :
    a.fields = (0b01, idx) ↔ idx.extractLsb' 8 4 = 0 ∧ a = .ioapic (idx.extractLsb' 0 8) := by
  cases a with
  | lapic off => simp [Addr.fields]
  | ioapic i =>
    have hi : i.setWidth 12 = (0 : BitVec 4) ++ i := BitVec.setWidth_eq_append (by decide)
    simp only [Addr.fields, Prod.mk.injEq, true_and, hi, Addr.ioapic.injEq]
    rw [append_eq_iff, eq_comm (a := (0 : BitVec 4))]

/-! ### The parts of the decoder -/

/-- The Local APIC half names a register by its offset (30_encoding.md R62, case `00`). -/
theorem decodeLapicReg_eq_ok_iff {idx : BitVec 12} {r : Reg} :
    decodeLapicReg idx = .ok r ↔ r.slots.low = .lapic idx := by
  constructor
  · intro h
    unfold decodeLapicReg at h
    split at h
    · next q hq =>
      cases h
      have hlow := List.find?_some hq
      exact eq_of_beq hlow
    · cases h
  · intro h
    cases r <;> cases h <;> rfl

/-- The low slot of a redirection entry (10_state.md R26). -/
theorem ioapicRedir_low_iff {n : Fin 120} {i : BitVec 8} :
    (Reg.ioapicRedir n).slots.low = .ioapic i ↔ i.toNat = 0x10 + 2 * n.val := by
  simp only [Reg.slots, Addr.ioapic.injEq, ← BitVec.toNat_inj, BitVec.toNat_ofNat]
  omega

/-- The redirection line names the entries below the count, by their low slots (30_encoding.md R62). -/
theorem decodeRedir_eq_ok_iff {count : Nat} {i : BitVec 8} {r : Reg} :
    decodeRedir count i = .ok r ↔
      ∃ n : Fin 120, r = .ioapicRedir n ∧ n.val < count ∧ i.toNat = 0x10 + 2 * n.val := by
  have heven : i.getLsbD 0 = false ↔ i.toNat % 2 = 0 := by
    simp [BitVec.getLsbD, Nat.testBit_zero]
  constructor
  · intro h
    unfold decodeRedir at h
    split at h
    · next hi =>
      obtain ⟨hlow, hbit⟩ := hi
      rw [heven] at hbit
      dsimp only at h
      split at h
      · next hn =>
        split at h
        · next hcount =>
          cases h
          refine ⟨_, rfl, hcount, ?_⟩
          simp only [Nat.shiftRight_one]
          omega
        · cases h
      · cases h
    · cases h
  · rintro ⟨n, rfl, hcount, hi⟩
    have hn : (i.toNat - 0x10) >>> 1 = n := by rw [Nat.shiftRight_one]; omega
    have hcond : 0x10 ≤ i.toNat ∧ i.getLsbD 0 = false := ⟨by omega, heven.mpr (by omega)⟩
    simp only [decodeRedir, if_pos hcond, hn, dif_pos n.isLt, if_pos hcount]

/-- The I/O APIC half names the registers that exist, by their low slots (30_encoding.md R62, case `01`). -/
theorem decodeIoapicReg_eq_ok_iff {p : Params} {idx : BitVec 12} {r : Reg} :
    decodeIoapicReg p idx = .ok r ↔
      r.wf p = true ∧ idx.extractLsb' 8 4 = 0 ∧ r.slots.low = .ioapic (idx.extractLsb' 0 8) := by
  constructor
  · intro h
    refine ⟨decodeIoapicReg_wf h, ?_⟩
    unfold decodeIoapicReg at h
    split at h
    · cases h
    · next hwide =>
      refine ⟨not_not.mp hwide, ?_⟩
      dsimp only at h
      split at h
      · next hi => cases h; rw [hi]; rfl
      · split at h
        · next hi => cases h; rw [hi]; rfl
        · split at h
          · next hi => cases h; rw [hi]; rfl
          · obtain ⟨n, rfl, -, hi⟩ := decodeRedir_eq_ok_iff.mp h
            exact ioapicRedir_low_iff.mpr hi
  · rintro ⟨hwf, hwide, hlow⟩
    simp only [decodeIoapicReg, hwide]
    generalize idx.extractLsb' 0 8 = i at hlow
    cases r with
    | ioapicRedir n =>
      have hi := ioapicRedir_low_iff.mp hlow
      have hne : ∀ j : BitVec 8, j.toNat < 0x10 → i ≠ j := by rintro j hj rfl; omega
      have hredir : decodeRedir p.redirCount i = .ok (.ioapicRedir n) :=
        decodeRedir_eq_ok_iff.mpr ⟨n, rfl, by simpa [Reg.wf] using hwf, hi⟩
      simp [hne, hredir]
    | ioapicId | ioapicVer | ioapicArb => cases hlow; rfl
    | _ => cases hlow

/-- The decoder names the register that exists and has the word's fields (30_encoding.md R62). -/
theorem decodeReg_eq_ok_iff {p : Params} {sp : BitVec 2} {idx : BitVec 12} {r : Reg} :
    decodeReg p sp idx = .ok r ↔ r.wf p = true ∧ r.slots.low.fields = (sp, idx) := by
  unfold decodeReg
  split
  · next hsp =>
    rw [hsp, fields_eq_lapic_iff, decodeLapicReg_eq_ok_iff]
    exact ⟨fun h => ⟨decodeLapicReg_wf (decodeLapicReg_eq_ok_iff.mpr h), h⟩, And.right⟩
  · next hlapic =>
    split
    · next hsp => rw [hsp, fields_eq_ioapic_iff, decodeIoapicReg_eq_ok_iff]
    · next hioapic =>
      refine iff_of_false nofun ?_
      rintro ⟨-, hf⟩
      cases hlow : r.slots.low with
      | lapic off => rw [hlow] at hf; exact hlapic (congrArg Prod.fst hf).symm
      | ioapic i => rw [hlow] at hf; exact hioapic (congrArg Prod.fst hf).symm

/-- What a word that decodes holds, field by field (30_encoding.md R62). -/
theorem decodeReq_eq_ok_iff {p : Params} {w : Word16} {r : Request} :
    decodeReq p w = .ok r ↔ w.getLsbD 12 = false ∧
      decodeReg p (w.extractLsb' 14 2) (w.extractLsb' 0 12) = .ok r.reg ∧ r.dir = wordDir w := by
  unfold decodeReq
  cases w.getLsbD 12 with
  | true => simp
  | false =>
    obtain ⟨reg, dir⟩ := r
    cases decodeReg p (w.extractLsb' 14 2) (w.extractLsb' 0 12) with
    | error e => simp
    | ok q =>
      simp only [Bool.false_eq_true, if_false, Except.ok.injEq, Request.mk.injEq, true_and]
      exact and_congr_right' eq_comm

/-! ### Operations -/

/-- The family `Laws.Rebuild` for every operation at once. -/
theorem ofRequest_request_value (i : Instr) : Laws.Rebuild.Statement i := by
  cases i <;> rfl

/-- The register of a well-formed operation exists (10_state.md R26). -/
theorem request_reg_wf {p : Params} {i : Instr} (h : i.wf p = true) : i.request.reg.wf p = true := by
  cases i with
  | rdIoapicRedir n => exact h
  | wrIoapicRedir n v => exact h
  | _ => rfl

/-- An offer whose word decodes is the operation its request selects, with the offer's value. -/
theorem decode_of_decodeReq {p : Params} {o : Offer} {r : Request} (h : decodeReq p o.word = .ok r) :
    decode p o = .ok (Instr.ofRequest r o.value) := by
  simp only [decode, h]

/-! ### The words of registers -/

/-- A Local APIC slot that is a register's low slot is one of the list's, and not the high slot of the ICR
(10_state.md R25). -/
theorem low_lapic {r : Reg} {off : BitVec 12} (h : r.slots.low = .lapic off) :
    r ∈ lapicRegs ∧ off ≠ 0x310 := by
  cases r <;> cases h <;> decide

/-- The low slot of an I/O APIC register that exists is 0x00, 0x01, 0x02 or that of a redirection entry
below the count (10_state.md R26). -/
theorem low_ioapic {p : Params} {r : Reg} {i : BitVec 8} (hwf : r.wf p = true)
    (h : r.slots.low = .ioapic i) :
    i.toNat < 0x03 ∨ ∃ n < p.redirCount, i.toNat = 0x10 + 2 * n := by
  cases r with
  | ioapicRedir n => exact .inr ⟨n, by simpa [Reg.wf] using hwf, ioapicRedir_low_iff.mp h⟩
  | ioapicId | ioapicVer | ioapicArb => cases h; exact .inl (by decide)
  | _ => cases h

/-! ### Waiting -/

/-- A context that cannot accept an operation and is not busy with it stays as it is, stuck or not
(log entry 9). -/
theorem operate_waits {r : Request} {ops : Except OpError (List BusOp)}
    {fin : Instance → Except Fault OpResult} {s : State} {k : Context} (hc : s.cur? = some k)
    (h : (k.inst.phase = .idle ∧ k.inst.fault ≠ none) ∨
      (k.inst.phase = .busy ∧ k.inst.req ≠ some r)) : operate r ops fin s = .next s := by
  cases hh : k.hung with
  | true => exact operate_hung hc hh
  | false =>
    rcases h with ⟨hp, hf⟩ | ⟨hp, hr⟩
    · simp [operate, hc, hh, hp, hf]
    · simp [operate, hc, hh, hp, hr]

end Sys2Proof.Machine

/-! ### The statements -/

open Sys2Proof Sys2Proof.Machine

/-- Settles O27: the decoder and the encoder are each known by the fields of the word, and they name the
same fields. -/
theorem decodeReqAcceptsExactlyTheIndexedWords : Obligations.DecodeReqAcceptsExactlyTheIndexedWords := by
  intro p w r
  rw [decodeReq_eq_ok_iff, decodeReg_eq_ok_iff, encode_eq_iff]
  tauto

/-- Settles O26: the offered word decodes to the operation's request, which rebuilds the operation. -/
theorem decodeOfOfferIsTheOperation : Obligations.DecodeOfOfferIsTheOperation := by
  intro p i hwf
  have hreq : decodeReq p i.offer.word = .ok i.request :=
    (decodeReqAcceptsExactlyTheIndexedWords p _ _).mpr ⟨request_reg_wf hwf, rfl⟩
  calc decode p i.offer
      _ = .ok (Instr.ofRequest i.request i.value) := decode_of_decodeReq hreq
      _ = .ok i := congrArg Except.ok (ofRequest_request_value i)

/-- Settles O25: every operation is a transition of its request. -/
theorem anInstanceThatCannotAcceptStays : Obligations.AnInstanceThatCannotAcceptStays := by
  intro i s k hc h
  obtain ⟨ops, fin, hexec, -, -⟩ := exec_operates i s
  rw [hexec, operate_waits hc h]

/-- Settles O28: a word that decodes is the word of a register that exists, and no such word is of a kind
listed: its slot is a low slot, in the Local APIC list or of an I/O APIC register. -/
theorem illegalWordsAreRefused : Obligations.IllegalWordsAreRefused := by
  intro p w hillegal
  cases hd : decodeReq p w with
  | error e => exact ⟨e, rfl⟩
  | ok r =>
    exfalso
    obtain ⟨hwf, henc⟩ := (decodeReqAcceptsExactlyTheIndexedWords p w r).mp hd
    obtain ⟨hfields, hbit, -⟩ := encode_eq_iff.mp henc
    cases hlow : r.reg.slots.low with
    | lapic off =>
      rw [hlow] at hfields
      obtain ⟨hsp, hidx⟩ := Prod.mk.inj hfields
      obtain ⟨hmem, hne⟩ := low_lapic hlow
      have hkinds : (∀ q ∈ lapicRegs, q.slots.low ≠ .lapic off) ∨ off = 0x310 := by
        rw [← hsp, ← hidx, hbit] at hillegal
        simpa using hillegal
      rcases hkinds with hunnamed | hhigh
      · exact hunnamed _ hmem hlow
      · exact hne hhigh
    | ioapic i =>
      rw [hlow] at hfields
      obtain ⟨hsp, hidx⟩ := Prod.mk.inj hfields
      have hnat : (w.extractLsb' 0 12).toNat = i.toNat := by
        rw [← hidx, BitVec.toNat_setWidth_of_le (by decide)]
      rw [← hsp] at hfields
      obtain ⟨hwide, hbyte⟩ := fields_eq_ioapic_iff.mp hfields
      rw [extractLsb'_slice _ (by decide)] at hwide hbyte
      have hkinds : (0x03 ≤ i.toNat ∧ i.toNat ≤ 0x0F) ∨
          (p.redirCount ≤ (i.toNat - 0x10) / 2 ∧ 0x10 ≤ i.toNat) ∨
          ∃ n < 120, i.toNat = 0x11 + 2 * n := by
        rw [← hsp, hbit, hnat, hwide, ← Addr.ioapic.inj hbyte] at hillegal
        simpa using hillegal
      rcases hkinds with hunnamed | hbeyond | ⟨m, -, hodd⟩ <;>
        rcases low_ioapic hwf hlow with hsmall | ⟨n, hn, heven⟩ <;> omega

/-- Settles O29, by evaluation of the decoder on each word. -/
theorem printedWordsDecode : Obligations.PrintedWordsDecode :=
  ⟨by decide, by decide, by decide, by decide, by decide, by decide, by decide⟩
end

section
/-!
PROOFS. The statements about the layouts (41_bitfield_codec.md). A layout that can represent every value is
known by two laws, `CodecLaws`: decode inverts encode (R103), and encode of decode keeps the bits of the
FieldMask (R104). That reserved bits do not matter (R100) and are never written (R101) follows from these two.
The laws of a layout follow from those of its fields, and the field primitives come first (R105).
-/

namespace Sys2Proof.Machine

/-! ### Reading a field of a word put together from fields -/

/-- A field of a union is the union of the fields. -/
@[simp] theorem getField_or {n : Nat} (a b : BitVec n) (lo k : Nat) :
    getField (a ||| b) lo k = getField a lo k ||| getField b lo k :=
  BitVec.extractLsb'_or

@[simp] theorem getField_putField_same {n k lo : Nat} (x : BitVec k) (hn : lo + k ≤ n) :
    getField (putField n x lo) lo k = x := by
  ext i hi
  rw [← BitVec.getLsbD_eq_getElem, getLsbD_getField, getLsbD_putField x lo (lo + i) (by omega)]
  simp [hi]

@[simp] theorem getField_putField_of_disjoint {n k k' lo lo' : Nat} (x : BitVec k') (hn : lo + k ≤ n)
    (h : lo + k ≤ lo' ∨ lo' + k' ≤ lo) : getField (putField n x lo') lo k = 0 := by
  ext i hi
  rw [← BitVec.getLsbD_eq_getElem, getLsbD_getField, getLsbD_putField x lo' (lo + i) (by omega)]
  rcases h with h | h
  · simp [show ¬ lo' ≤ lo + i by omega]
  · simp [show k' ≤ lo + i - lo' by omega]

@[simp] theorem getField_putFlag_of_outside {n k lo j : Nat} (b : Bool) (hn : lo + k ≤ n)
    (h : lo + k ≤ j ∨ j < lo) : getField (putFlag n b j) lo k = 0 := by
  ext i hi
  rw [← BitVec.getLsbD_eq_getElem, getLsbD_getField, getLsbD_putFlag b j (lo + i) (by omega)]
  simp [show lo + i ≠ j by omega]

/-- A flag of a union is the disjunction of the flags. -/
@[simp] theorem getFlag_or {n : Nat} (a b : BitVec n) (i : Nat) :
    getFlag (a ||| b) i = (getFlag a i || getFlag b i) :=
  BitVec.getLsbD_or

@[simp] theorem getFlag_putFlag {n i : Nat} (b : Bool) (j : Nat) (hi : i < n) :
    getFlag (putFlag n b j) i = (b && decide (i = j)) :=
  getLsbD_putFlag b j i hi

@[simp] theorem getFlag_putField_of_outside {n k lo i : Nat} (x : BitVec k) (hn : i < n)
    (h : i < lo ∨ lo + k ≤ i) : getFlag (putField n x lo) i = false := by
  rw [getFlag, getLsbD_putField x lo i hn]
  rcases h with h | h
  · simp [Nat.not_le.mpr h]
  · simp [show k ≤ i - lo by omega]

/-! ### Putting a word's own fields back -/

/-- A field put back where it was read is the word masked to that field. -/
theorem putField_getField {n : Nat} (raw : BitVec n) (lo k : Nat) :
    putField n (getField raw lo k) lo = raw &&& putField n (BitVec.allOnes k) lo := by
  refine BitVec.eq_of_getLsbD_eq fun i hi => ?_
  rw [BitVec.getLsbD_and, getLsbD_putField _ lo i hi, getLsbD_putField _ lo i hi, getLsbD_getField,
    BitVec.getLsbD_allOnes]
  by_cases h : lo ≤ i
  · rw [Nat.add_sub_cancel' h]
    simp [h, Bool.and_comm]
  · simp [h]

/-- A flag put back where it was read is the word masked to that bit. -/
theorem putFlag_getFlag {n : Nat} (raw : BitVec n) (j : Nat) :
    putFlag n (getFlag raw j) j = raw &&& putFlag n true j := by
  refine BitVec.eq_of_getLsbD_eq fun i hi => ?_
  rw [BitVec.getLsbD_and, getLsbD_putFlag _ j i hi, getLsbD_putFlag _ j i hi, getFlag]
  by_cases h : i = j
  · simp [h]
  · simp [h]

/-! ### The two laws of a layout -/

/-- The laws of a layout with reserved bits zero, every word of which decodes (41_bitfield_codec.md R103,
R104). -/
structure CodecLaws {α : Type} {n : Nat} (encode : α → BitVec n) (decode : BitVec n → α)
    (mask : BitVec n) : Prop where
  decode_encode : ∀ v, decode (encode v) = v
  encode_decode : ∀ raw, encode (decode raw) = raw &&& mask

section
variable {α : Type} {n : Nat} {encode : α → BitVec n} {decode : BitVec n → α} {mask : BitVec n}

/-- Decode reads no reserved bit (R100): it inverts encode, which has dropped them. -/
theorem CodecLaws.decode_eq_of_and_mask_eq (h : CodecLaws encode decode mask) {raw raw' : BitVec n}
    (hm : raw &&& mask = raw' &&& mask) : decode raw = decode raw' := by
  calc decode raw
      _ = decode (raw &&& mask) := by rw [← h.encode_decode, h.decode_encode]
      _ = decode (raw' &&& mask) := by rw [hm]
      _ = decode raw' := by rw [← h.encode_decode, h.decode_encode]

/-- Encode writes no reserved bit (R101): its word is its own decoded value encoded again. -/
theorem CodecLaws.encode_and_not_mask (h : CodecLaws encode decode mask) (v : α) :
    encode v &&& ~~~mask = 0 := by
  calc encode v &&& ~~~mask
      _ = (encode v &&& mask) &&& ~~~mask := by rw [← h.encode_decode, h.decode_encode]
      _ = 0 := by rw [BitVec.and_assoc, BitVec.and_not_self]; exact BitVec.and_zero
end

/-- One field that lies in the word is a layout of its own. -/
theorem codecLaws_field {n lo k : Nat} (hn : lo + k ≤ n) :
    CodecLaws (fun x : BitVec k => putField n x lo) (fun raw => getField raw lo k)
      (putField n (BitVec.allOnes k) lo) where
  decode_encode x := getField_putField_same x hn
  encode_decode raw := putField_getField raw lo k

/-! ### The codes of the enumerated fields -/

@[simp] theorem lvtModeCode_lvtModeOfCode (c : BitVec 3) : lvtModeCode (lvtModeOfCode c) = c := by
  decide +revert

@[simp] theorem lvtModeOfCode_lvtModeCode (m : LvtDeliveryMode) : lvtModeOfCode (lvtModeCode m) = m := by
  cases m <;> rfl

@[simp] theorem icrModeCode_icrModeOfCode (c : BitVec 3) : icrModeCode (icrModeOfCode c) = c := by
  decide +revert

@[simp] theorem icrModeOfCode_icrModeCode (m : IcrDeliveryMode) : icrModeOfCode (icrModeCode m) = m := by
  cases m <;> rfl

@[simp] theorem redirModeCode_redirModeOfCode (c : BitVec 3) :
    redirModeCode (redirModeOfCode c) = c := by
  decide +revert

@[simp] theorem redirModeOfCode_redirModeCode (m : RedirDeliveryMode) :
    redirModeOfCode (redirModeCode m) = m := by
  cases m <;> rfl

@[simp] theorem timerModeCode_timerModeOfCode (c : BitVec 2) :
    timerModeCode (timerModeOfCode c) = c := by
  decide +revert

@[simp] theorem timerModeOfCode_timerModeCode (m : TimerMode) :
    timerModeOfCode (timerModeCode m) = m := by
  cases m <;> rfl

@[simp] theorem shorthandCode_shorthandOfCode (c : BitVec 2) :
    shorthandCode (shorthandOfCode c) = c := by
  decide +revert

@[simp] theorem shorthandOfCode_shorthandCode (m : Shorthand) :
    shorthandOfCode (shorthandCode m) = m := by
  cases m <;> rfl

/-! ### The layouts whose every value encodes

First law: each field is read back, and the fields beside it read zero there. Second law: each field put
back is a mask of the word, and the union of these masks evaluates to the FieldMask. -/

theorem codecLaws_lapicVersion : CodecLaws encodeLapicVersion decodeLapicVersion 0x01FF00FF where
  decode_encode v := by simp [decodeLapicVersion, encodeLapicVersion]
  encode_decode raw := by
    simp only [encodeLapicVersion, decodeLapicVersion, putField_getField, putFlag_getFlag,
      ← BitVec.and_or_distrib_left]
    rfl

theorem codecLaws_ioapicVersion : CodecLaws encodeIoapicVersion decodeIoapicVersion 0x00FF00FF where
  decode_encode v := by simp [decodeIoapicVersion, encodeIoapicVersion]
  encode_decode raw := by
    simp only [encodeIoapicVersion, decodeIoapicVersion, putField_getField,
      ← BitVec.and_or_distrib_left]
    rfl

theorem codecLaws_logicalDest : CodecLaws encodeLogicalDest decodeLogicalDest 0xFF000000 where
  decode_encode v := by simp [decodeLogicalDest, encodeLogicalDest]
  encode_decode raw := by
    simp only [encodeLogicalDest, decodeLogicalDest, putField_getField]
    rfl

theorem codecLaws_spuriousVector : CodecLaws encodeSpuriousVector decodeSpuriousVector 0x000013FF where
  decode_encode v := by simp [decodeSpuriousVector, encodeSpuriousVector]
  encode_decode raw := by
    simp only [encodeSpuriousVector, decodeSpuriousVector, putField_getField, putFlag_getFlag,
      ← BitVec.and_or_distrib_left]
    rfl

theorem codecLaws_errorStatus : CodecLaws encodeErrorStatus decodeErrorStatus 0x000000FF where
  decode_encode v := by simp [decodeErrorStatus, encodeErrorStatus]
  encode_decode raw := by
    simp only [encodeErrorStatus, decodeErrorStatus, putFlag_getFlag, ← BitVec.and_or_distrib_left]
    rfl

theorem codecLaws_lvtEntry : CodecLaws encodeLvtEntry decodeLvtEntry 0x0001F7FF where
  decode_encode v := by simp [decodeLvtEntry, encodeLvtEntry]
  encode_decode raw := by
    simp only [encodeLvtEntry, decodeLvtEntry, lvtModeCode_lvtModeOfCode, putField_getField,
      putFlag_getFlag, ← BitVec.and_or_distrib_left]
    rfl

theorem codecLaws_lvtTimer : CodecLaws encodeLvtTimer decodeLvtTimer 0x0007F7FF where
  decode_encode v := by simp [decodeLvtTimer, encodeLvtTimer]
  encode_decode raw := by
    simp only [encodeLvtTimer, decodeLvtTimer, lvtModeCode_lvtModeOfCode,
      timerModeCode_timerModeOfCode, putField_getField, putFlag_getFlag,
      ← BitVec.and_or_distrib_left]
    rfl

theorem codecLaws_icr : CodecLaws encodeIcr decodeIcr 0xFF000000000CDFFF where
  decode_encode v := by simp [decodeIcr, encodeIcr]
  encode_decode raw := by
    simp only [encodeIcr, decodeIcr, icrModeCode_icrModeOfCode, shorthandCode_shorthandOfCode,
      putField_getField, putFlag_getFlag, ← BitVec.and_or_distrib_left]
    rfl

theorem codecLaws_redirEntry : CodecLaws encodeRedirEntry decodeRedirEntry 0xFF0000000001FFFF where
  decode_encode v := by simp [decodeRedirEntry, encodeRedirEntry]
  encode_decode raw := by
    simp only [encodeRedirEntry, decodeRedirEntry, redirModeCode_redirModeOfCode,
      putField_getField, putFlag_getFlag, ← BitVec.and_or_distrib_left]
    rfl

/-! ### The priority byte (44_priority_field.md) -/

theorem encodePrio_decodePrio (b : BitVec 8) : encodePrio (decodePrio b) = b := by
  simp only [encodePrio, decodePrio, putField_getField, ← BitVec.and_or_distrib_left]
  exact BitVec.and_allOnes

theorem decodePrio_encodePrio (p : Priority) : decodePrio (encodePrio p) = p := by
  simp [decodePrio, encodePrio]

/-- Zero extension puts the byte at bit 0 (R194). -/
theorem encodePriority_eq_putField (p : Priority) : encodePriority p = putField 32 (encodePrio p) 0 :=
  (BitVec.shiftLeft_zero _).symm

theorem codecLaws_priority : CodecLaws encodePriority decodePriority 0x000000FF where
  decode_encode p := by
    rw [encodePriority_eq_putField, decodePriority, getField_putField_same _ (by decide),
      decodePrio_encodePrio]
  encode_decode raw := by
    rw [encodePriority_eq_putField, decodePriority, encodePrio_decodePrio, putField_getField]
    rfl

/-! ### The identifiers: a field of 4 or 8 bits, held in 8 -/

/-- The identifier field with the FieldMask of its width (10_state.md R29). -/
theorem codecLaws_idField (w : IdWidth) :
    CodecLaws (fun x : BitVec w.bits => putField 32 x 24) (fun raw => getField raw 24 w.bits)
      ((idMask w).setWidth 32) := by
  cases w with
  | four => exact codecLaws_field (by decide)
  | eight => exact codecLaws_field (by decide)

/-- An identifier that fits the width comes back (R110). -/
theorem getId_putId {w : IdWidth} {id : BitVec 8} (h : id.toNat < 2 ^ w.bits) :
    getId w (putId w id) = id := by
  rw [getId, putId, (codecLaws_idField w).decode_encode]
  apply BitVec.eq_of_toNat_eq
  rw [BitVec.toNat_setWidth, BitVec.toNat_setWidth, Nat.mod_eq_of_lt h, Nat.mod_eq_of_lt id.isLt]

theorem putId_getId (w : IdWidth) (raw : Word32) :
    putId w (getId w raw) = raw &&& (idMask w).setWidth 32 := by
  have hfits : w.bits ≤ 8 := by cases w <;> decide
  rw [getId, putId, BitVec.setWidth_setWidth_of_le _ hfits, BitVec.setWidth_eq,
    (codecLaws_idField w).encode_decode]

theorem getId_eq_of_and_mask_eq {w : IdWidth} {raw raw' : Word32}
    (h : raw &&& (idMask w).setWidth 32 = raw' &&& (idMask w).setWidth 32) : getId w raw = getId w raw' :=
  congrArg (BitVec.setWidth 8) ((codecLaws_idField w).decode_eq_of_and_mask_eq h)

/-- Whatever the identifier, it is cut to its field (R105). -/
theorem putId_and_not_mask (w : IdWidth) (id : BitVec 8) :
    putId w id &&& ~~~((idMask w).setWidth 32) = 0 :=
  (codecLaws_idField w).encode_and_not_mask (id.setWidth w.bits)

/-! ### The DFR: decode can fail, and its reserved bits are ones (R114, R115) -/

theorem decodeDestFormat_eq_ok_iff {raw : Word32} {v : DestFormat} :
    decodeDestFormat raw = .ok v ↔ getField raw 28 4 = destFormatCode v := by
  unfold decodeDestFormat
  by_cases hflat : getField raw 28 4 = 0xF
  · rw [if_pos hflat, hflat]
    cases v <;> simp [destFormatCode]
  · rw [if_neg hflat]
    by_cases hcluster : getField raw 28 4 = 0x0
    · rw [if_pos hcluster, hcluster]
      cases v <;> simp [destFormatCode]
    · rw [if_neg hcluster]
      cases v with
      | cluster => exact iff_of_false nofun hcluster
      | flat => exact iff_of_false nofun hflat

theorem decodeDestFormat_encodeDestFormat (v : DestFormat) :
    decodeDestFormat (encodeDestFormat v) = .ok v := by
  rw [decodeDestFormat_eq_ok_iff]
  cases v <;> rfl

theorem encodeDestFormat_of_decode {raw : Word32} {v : DestFormat} (h : decodeDestFormat raw = .ok v) :
    encodeDestFormat v = (raw &&& 0xF0000000) ||| 0x0FFFFFFF := by
  rw [encodeDestFormat, ← decodeDestFormat_eq_ok_iff.mp h, putField_getField]
  rfl

theorem decodeDestFormat_eq_of_and_mask_eq {raw raw' : Word32}
    (h : raw &&& 0xF0000000 = raw' &&& 0xF0000000) : decodeDestFormat raw = decodeDestFormat raw' := by
  have hmodel : getField raw 28 4 = getField raw' 28 4 :=
    (codecLaws_field (by decide)).decode_eq_of_and_mask_eq h
  simp only [decodeDestFormat, hmodel]

theorem encodeDestFormat_and_not_mask (v : DestFormat) :
    encodeDestFormat v &&& ~~~0xF0000000 = 0x0FFFFFFF := by
  cases v <;> rfl

/-! ### The timer divisor: the code of a word, and the table over the codes (42_scattered_divisor.md) -/

/-- The scattered code is a layout of its own with the FieldMask of the DCR (R150). -/
theorem codecLaws_scatter : CodecLaws scatter gather 0x0000000B where
  decode_encode c := by decide +revert
  encode_decode raw := by
    have hhigh : getField (gather raw) 2 1 = getField raw 3 1 := by simp [gather]
    have hlow : getField (gather raw) 0 2 = getField raw 0 2 := by simp [gather]
    simp only [scatter, hhigh, hlow, putField_getField, ← BitVec.and_or_distrib_left]
    rfl

/-- The row of the divisor table for a code: its divisor in the rotate form, and its raw encoding. -/
def divisorRow (c : BitVec 3) : Word32 × Word32 := ((rotl8 0x02 c.toNat).setWidth 32, scatter c)

/-- The printed table is the rotate form, code by code (R151, R152). -/
theorem divisorTable_eq_map_divisorRow : divisorTable = [0, 1, 2, 3, 4, 5, 6, 7].map divisorRow := rfl

theorem encodeDivisor_divisorRow (c : BitVec 3) :
    encodeDivisor { divisor := (divisorRow c).1 } = .ok (divisorRow c).2 := by
  match c with
  | 0 | 1 | 2 | 3 | 4 | 5 | 6 | 7 => rfl

theorem decodeDivisor_divisorRow (c : BitVec 3) :
    decodeDivisor (divisorRow c).2 = { divisor := (divisorRow c).1 } := by
  rw [decodeDivisor, divisorRow, codecLaws_scatter.decode_encode]

/-- A divisor that encodes is that of a row. -/
theorem exists_divisorRow_of_encodeDivisor {v : Divisor} {raw : Word32} (h : encodeDivisor v = .ok raw) :
    ∃ c, v = { divisor := (divisorRow c).1 } ∧ raw = (divisorRow c).2 := by
  unfold encodeDivisor at h
  split at h
  next row hrow =>
    have hmem := List.mem_of_find?_eq_some hrow
    rw [divisorTable_eq_map_divisorRow] at hmem
    obtain ⟨c, -, rfl⟩ := List.mem_map.mp hmem
    have hdivisor : (divisorRow c).1 = v.divisor := by simpa using List.find?_some hrow
    exact ⟨c, congrArg Divisor.mk hdivisor.symm, (Except.ok.inj h).symm⟩
  next => cases h

theorem decodeDivisor_of_encodeDivisor {v : Divisor} {raw : Word32} (h : encodeDivisor v = .ok raw) :
    decodeDivisor raw = v := by
  obtain ⟨c, rfl, rfl⟩ := exists_divisorRow_of_encodeDivisor h
  exact decodeDivisor_divisorRow c

theorem encodeDivisor_decodeDivisor (raw : Word32) :
    encodeDivisor (decodeDivisor raw) = .ok (raw &&& 0x0000000B) := by
  rw [← codecLaws_scatter.encode_decode]
  exact encodeDivisor_divisorRow (gather raw)

theorem decodeDivisor_eq_of_and_mask_eq {raw raw' : Word32}
    (h : raw &&& 0x0000000B = raw' &&& 0x0000000B) : decodeDivisor raw = decodeDivisor raw' := by
  rw [decodeDivisor, decodeDivisor, codecLaws_scatter.decode_eq_of_and_mask_eq h]

theorem and_not_mask_of_encodeDivisor {v : Divisor} {raw : Word32} (h : encodeDivisor v = .ok raw) :
    raw &&& ~~~0x0000000B = 0 := by
  obtain ⟨c, -, rfl⟩ := exists_divisorRow_of_encodeDivisor h
  exact codecLaws_scatter.encode_and_not_mask c

/-! ### The slots of a wide value -/

/-- The high slot stands before the low one (41_bitfield_codec.md R124). -/
theorem join_eq_append (low high : Word32) : join low high = high ++ low := by
  rw [join, BitVec.append_def, BitVec.shiftLeftZeroExtend_eq, BitVec.setWidth'_eq]

/-- A wide value is known by its two slots. -/
theorem join_eq_iff {low high : Word32} {v : Word64} :
    join low high = v ↔ high = highOf v ∧ low = lowOf v := by
  rw [join_eq_append]
  exact append_eq_iff

end Sys2Proof.Machine

/-! ### The statements -/

open Sys2Proof Sys2Proof.Machine

/-- Settles O50: the first law of each layout, an identifier's on those that fit, and the rows of the
divisor table. -/
theorem decodeOfEncodeIsTheValue : Obligations.DecodeOfEncodeIsTheValue := by
  refine ⟨fun w v hv => ?_, fun w v hv => ?_, codecLaws_lapicVersion.decode_encode,
    codecLaws_ioapicVersion.decode_encode, codecLaws_logicalDest.decode_encode,
    decodeDestFormat_encodeDestFormat, codecLaws_spuriousVector.decode_encode,
    codecLaws_errorStatus.decode_encode, codecLaws_lvtTimer.decode_encode,
    codecLaws_lvtEntry.decode_encode, codecLaws_icr.decode_encode, codecLaws_redirEntry.decode_encode,
    fun v => rfl, codecLaws_priority.decode_encode,
    fun v raw => decodeDivisor_of_encodeDivisor⟩
  · exact congrArg ApicId.mk (getId_putId (of_decide_eq_true hv))
  · exact congrArg ArbId.mk (getId_putId (of_decide_eq_true hv))

/-- Settles O51: the second law of each layout; a word of the DFR that decodes has its format's code in
bits[31:28]. -/
theorem encodeOfDecodeKeepsTheFieldsOnly : Obligations.EncodeOfDecodeKeepsTheFieldsOnly :=
  ⟨putId_getId .eight, putId_getId .four, putId_getId .eight, putId_getId .four,
    codecLaws_lapicVersion.encode_decode, codecLaws_ioapicVersion.encode_decode,
    codecLaws_priority.encode_decode, codecLaws_logicalDest.encode_decode,
    fun _ _ => encodeDestFormat_of_decode, codecLaws_spuriousVector.encode_decode,
    codecLaws_errorStatus.encode_decode, codecLaws_lvtTimer.encode_decode,
    codecLaws_lvtEntry.encode_decode, codecLaws_icr.encode_decode, codecLaws_redirEntry.encode_decode,
    fun _ => rfl, encodeDivisor_decodeDivisor⟩

/-- Settles O52: a layout's two laws make its decode blind to the reserved bits
(`CodecLaws.decode_eq_of_and_mask_eq`). -/
theorem reservedBitsNeverChangeADecodedValue : Obligations.ReservedBitsNeverChangeADecodedValue := by
  intro raw raw'
  refine ⟨fun h => ?_, fun h => ?_, codecLaws_lapicVersion.decode_eq_of_and_mask_eq,
    codecLaws_ioapicVersion.decode_eq_of_and_mask_eq,
    fun h => ⟨codecLaws_priority.decode_eq_of_and_mask_eq h,
      codecLaws_errorStatus.decode_eq_of_and_mask_eq h⟩,
    decodeDestFormat_eq_of_and_mask_eq, codecLaws_spuriousVector.decode_eq_of_and_mask_eq,
    codecLaws_lvtTimer.decode_eq_of_and_mask_eq, codecLaws_lvtEntry.decode_eq_of_and_mask_eq,
    decodeDivisor_eq_of_and_mask_eq, fun wide wide' =>
      ⟨codecLaws_icr.decode_eq_of_and_mask_eq, codecLaws_redirEntry.decode_eq_of_and_mask_eq⟩⟩
  · have hid : getId .eight raw = getId .eight raw' := getId_eq_of_and_mask_eq h
    exact ⟨congrArg ApicId.mk hid, congrArg ArbId.mk hid,
      codecLaws_logicalDest.decode_eq_of_and_mask_eq h⟩
  · have hid : getId .four raw = getId .four raw' := getId_eq_of_and_mask_eq h
    exact ⟨congrArg ApicId.mk hid, congrArg ArbId.mk hid⟩

/-- Settles O53: a layout's two laws keep its encode inside the mask (`CodecLaws.encode_and_not_mask`). -/
theorem encodedWordsKeepToTheirMask : Obligations.EncodedWordsKeepToTheirMask :=
  ⟨fun v => putId_and_not_mask .eight v.id, fun v => putId_and_not_mask .four v.id,
    fun v => putId_and_not_mask .eight v.arbId, fun v => putId_and_not_mask .four v.arbId,
    codecLaws_lapicVersion.encode_and_not_mask, codecLaws_ioapicVersion.encode_and_not_mask,
    codecLaws_priority.encode_and_not_mask, codecLaws_logicalDest.encode_and_not_mask,
    encodeDestFormat_and_not_mask, codecLaws_spuriousVector.encode_and_not_mask,
    codecLaws_errorStatus.encode_and_not_mask, codecLaws_lvtTimer.encode_and_not_mask,
    codecLaws_lvtEntry.encode_and_not_mask, codecLaws_icr.encode_and_not_mask,
    codecLaws_redirEntry.encode_and_not_mask, fun _ _ => and_not_mask_of_encodeDivisor⟩

/-- Settles O54: the printed tables by evaluation, the two directions by the lemmas about each field. -/
theorem deliveryModeCodesAreBijections : Obligations.DeliveryModeCodesAreBijections :=
  ⟨rfl, rfl, rfl, rfl, rfl,
    fun c => ⟨lvtModeCode_lvtModeOfCode c, icrModeCode_icrModeOfCode c,
      redirModeCode_redirModeOfCode c⟩,
    fun c => ⟨timerModeCode_timerModeOfCode c, shorthandCode_shorthandOfCode c⟩,
    lvtModeOfCode_lvtModeCode, icrModeOfCode_icrModeCode, redirModeOfCode_redirModeCode,
    timerModeOfCode_timerModeCode, shorthandOfCode_shorthandCode⟩

/-- Settles O57: the joined value is the concatenation of its slots, which `lowOf` and `highOf` read. -/
theorem slotsJoinAndSplit : Obligations.SlotsJoinAndSplit := by
  refine ⟨fun low high => ?_, fun v => join_eq_iff.mpr ⟨rfl, rfl⟩, fun low high => ?_⟩
  · rw [join_eq_append, BitVec.toNat_append, ← Nat.shiftLeft_add_eq_or_of_lt low.isLt,
      Nat.shiftLeft_eq]
  · obtain ⟨hhigh, hlow⟩ := join_eq_iff.mp (Eq.refl (join low high))
    exact ⟨hlow.symm, hhigh.symm⟩
end

section
/-!
PROOFS. The statement about the timer divisor's table (42_scattered_divisor.md), both ways: its rows are
those of the eight codes, so the row of a word's code stands in it, and a divisor that no row names has no
word.
-/

namespace Sys2Proof.Machine

/-- Every code has its row (R152). -/
theorem divisorRow_mem_divisorTable (c : BitVec 3) : divisorRow c ∈ divisorTable := by
  have hcode : c ∈ ([0, 1, 2, 3, 4, 5, 6, 7] : List (BitVec 3)) := by decide +revert
  rw [divisorTable_eq_map_divisorRow]
  exact List.mem_map_of_mem hcode

/-- The table has no other row. -/
theorem exists_divisorRow_of_mem {row : Word32 × Word32} (h : row ∈ divisorTable) :
    ∃ c, divisorRow c = row := by
  rw [divisorTable_eq_map_divisorRow] at h
  obtain ⟨c, -, hrow⟩ := List.mem_map.mp h
  exact ⟨c, hrow⟩

/-- The inverse lookup fails on exactly the divisors that no row names (R153). -/
theorem encodeDivisor_eq_error_iff {v : Divisor} :
    encodeDivisor v = .error (.invalidDivisor v.divisor) ↔ ∀ row ∈ divisorTable, row.1 ≠ v.divisor := by
  unfold encodeDivisor
  split
  next row hrow =>
    have hdivisor : row.1 = v.divisor := by simpa using List.find?_some hrow
    exact iff_of_false nofun fun hnone => hnone row (List.mem_of_find?_eq_some hrow) hdivisor
  next hnone =>
    exact iff_of_true rfl (by simpa using List.find?_eq_none.mp hnone)

/-- The first column of the table (R152). -/
theorem divisor_mem_of_mem_divisorTable :
    ∀ row ∈ divisorTable, row.1 ∈ ([1, 2, 4, 8, 16, 32, 64, 128] : List Word32) := by
  simp [divisorTable]

end Sys2Proof.Machine

open Sys2Proof Sys2Proof.Machine

/-- Settles O55: a word has the row of its code, gathered from the word; a row of the table is some code's;
and a divisor outside the first column is found in no row. -/
theorem divisorCodecMatchesItsTable : Obligations.DivisorCodecMatchesItsTable := by
  refine ⟨fun raw => ?_, fun row hrow => ?_, fun d hd => ?_, codecLaws_scatter.decode_encode,
    codecLaws_scatter.encode_decode⟩
  · exact ⟨divisorRow (gather raw), divisorRow_mem_divisorTable (gather raw),
      codecLaws_scatter.encode_decode raw, rfl⟩
  · obtain ⟨c, rfl⟩ := exists_divisorRow_of_mem hrow
    exact encodeDivisor_divisorRow c
  · refine encodeDivisor_eq_error_iff.mpr fun row hrow (heq : row.1 = d) => hd ?_
    exact heq ▸ divisor_mem_of_mem_divisorTable row hrow
end

section
/-!
PROOFS. The statements about the phase machine (43_split_sequencer.md): what a transition of an operation
keeps, and which operation a step runs. Accept, Issue and Complete are each shown once to change nothing
outside the current context; a step is first a transition of the context its agenda names, and a transition
is then the operation on the port or the one latched.
-/

namespace Sys2Proof.Machine

/-! ### What a transition of an operation keeps -/

/-- What one transition of context `c` may append to the history: nothing, or one entry of its own
(20_memory.md R46). -/
inductive AtMostOneOwn (c : Nat) : List Entry → Prop
  | none : AtMostOneOwn c []
  | event (e : BusEvent) (h : e.ctx = c) : AtMostOneOwn c [.bus e]
  | response (r : Response) (h : r.ctx = c) : AtMostOneOwn c [.rsp r]

/-- `Keeps k k' new s t`: an `Effect` on the current context that keeps to it. The port and the stuck mark
stay, which no transition of an operation writes, and what is appended is the context's own. -/
structure Keeps (k k' : Context) (new : List Entry) (s t : State) : Prop extends
    Effect s.ctx k k' new s t where
  ctx : t.ctx = s.ctx
  port : k'.port = k.port
  hung : k'.hung = k.hung
  own : AtMostOneOwn s.ctx new

/-- An effect on one context leaves the others alone. -/
theorem Effect.elsewhere {c d : Nat} {k k' : Context} {new : List Entry} {s t : State}
    (h : Effect c k k' new s t) (hd : d ≠ c) : t.contexts[d]? = s.contexts[d]? := by
  rw [h.contexts, List.getElem?_set_ne hd.symm]

/-- The context of an effect ends as the effect says. -/
theorem Effect.there {c : Nat} {k k' : Context} {new : List Entry} {s t : State}
    (h : Effect c k k' new s t) : t.contexts[c]? = some k' := by
  have hlt : c < s.contexts.length := (List.getElem?_eq_some_iff.mp h.here).1
  rw [h.contexts, List.getElem?_set_self hlt]

/-- The current context put back where it stands. -/
theorem State.contexts_set_cur {s : State} {k : Context} (hc : s.cur? = some k) :
    s.contexts = s.contexts.set s.ctx k :=
  (congrArg State.contexts (State.setCur_self hc)).symm

theorem keeps_refl {s : State} {k : Context} (hc : s.cur? = some k) : Keeps k k [] s s :=
  ⟨⟨hc, State.contexts_set_cur hc, (List.append_nil _).symm, rfl, rfl⟩, rfl, rfl, rfl, .none⟩

theorem accept_keeps {s : State} {k : Context} (hc : s.cur? = some k) (r : Request)
    (ops : Except OpError (List BusOp)) : ∃ k' new, Keeps k k' new s (accept r ops k s) := by
  rcases accept_cases r ops k s with ⟨l, -, -, hacc⟩ | ⟨e, -, -, hacc⟩ | ⟨f, -, hacc⟩ <;> rw [hacc]
  · exact ⟨k.accepted r l, [], ⟨hc, rfl, (List.append_nil _).symm, rfl, rfl⟩, rfl, rfl, rfl, .none⟩
  · exact ⟨k, _, ⟨hc, State.contexts_set_cur hc, rfl, rfl, rfl⟩, rfl, rfl, rfl, .response _ rfl⟩
  · exact ⟨k.latched f, _, ⟨hc, rfl, rfl, rfl, rfl⟩, rfl, rfl, rfl, .response _ rfl⟩

theorem issue_keeps {s : State} {k : Context} (hc : s.cur? = some k) (r : Request) (op : BusOp)
    (rest : List BusOp) : ∃ k' new, Keeps k k' new s (issue r op rest k s) := by
  rw [issue_eq]
  refine ⟨{ k with inst := k.inst.issued r op rest s.readWord }, _, ?_, ?_, rfl, rfl,
    .event (op.event s.ctx s.readWord) (op.event_ctx _ _)⟩
  · cases op <;> exact ⟨hc, by simp, by simp, by simp, by simp⟩
  · cases op <;> simp

theorem complete_keeps {s : State} {k : Context} (hc : s.cur? = some k) (res : OpResult) :
    ∃ k' new, Keeps k k' new s (complete res k s) := by
  rw [complete_eq]
  exact ⟨_, _, ⟨hc, rfl, rfl, rfl, rfl⟩, rfl, rfl, rfl, .response _ rfl⟩

/-- Every operation is a transition of its request, and each transition keeps to its context. -/
theorem exec_keeps {i : Instr} {s t : State} (h : exec i s = .next t) :
    ∃ k k' new, Keeps k k' new s t := by
  obtain ⟨ops, fin, hexec, -, -⟩ := exec_operates i s
  rw [hexec] at h
  obtain ⟨k, hc, hcases⟩ := operate_cases h
  refine ⟨k, ?_⟩
  rcases hcases with rfl | ⟨-, -, -, rfl⟩ | ⟨-, -, -, ⟨op, rest, -, rfl⟩ | ⟨res, -, -, rfl⟩⟩
  · exact ⟨k, [], keeps_refl hc⟩
  · exact accept_keeps hc i.request ops
  · exact issue_keeps hc i.request op rest
  · exact complete_keeps hc res

/-! ### Which context a step moves -/

theorem step_of_agenda_nil {s : State} (h : s.agenda = []) : step s = transition s := by
  simp only [step, runAgenda, h]

theorem step_of_agenda_run {s : State} {c : Nat} {more : List Stimulus} (h : s.agenda = .run c :: more) :
    step s = transition { s with ctx := c, agenda := more } := by
  simp only [step, runAgenda, h, react]

/-! ### Which operation a transition runs -/

/-- A context that can accept takes the request off its port and runs the operation it decodes to
(43_split_sequencer.md R177 (1)). -/
theorem transition_of_canAccept {s : State} {k : Context} {o : Offer} {rest : List Offer} {i : Instr}
    (hc : s.cur? = some k) (ha : k.CanAccept) (hport : k.port = o :: rest)
    (hd : decode s.params o = .ok i) : transition s = exec i (s.setCur { k with port := rest }) := by
  obtain ⟨hhung, hidle, hfault⟩ := ha
  simp [transition, acceptOffer, hc, hhung, hidle, hfault, hport, hd]

/-- A busy context runs the operation its latched request selects. -/
theorem transition_of_busy {s : State} {k : Context} {r : Request} (hc : s.cur? = some k)
    (hh : k.hung = false) (hp : k.inst.phase = .busy) (hr : k.inst.req = some r) :
    transition s = exec (Instr.ofRequest r {}) s := by
  simp [transition, hc, hh, hp, hr]

end Sys2Proof.Machine

/-! ### The statements -/

open Sys2Proof Sys2Proof.Machine

/-- Settles O24: what `exec_keeps` says, read off field by field. -/
theorem everyTransitionKeepsToItsContext : Obligations.EveryTransitionKeepsToItsContext := by
  intro i s t h
  obtain ⟨k, k', new, hk⟩ := exec_keeps h
  refine ⟨hk.params, hk.ctx, hk.agenda, fun c hne => hk.elsewhere hne, fun q hq => ?_, ?_⟩
  · obtain rfl : k = q := Option.some.inj (hk.here.symm.trans hq)
    have hcur : t.cur? = some k' := by rw [State.cur?, hk.ctx, hk.there]
    exact ⟨k', hcur, hk.port, hk.hung⟩
  · have happ := hk.history
    cases hk.own with
    | none => exact .inl (happ.trans (List.append_nil _))
    | event e he => exact .inr (.inl ⟨e, happ, he⟩)
    | response r hr => exact .inr (.inr ⟨r, happ, hr⟩)

/-- Settles O30: the step is a transition of the context in question, which runs the request on its port. -/
theorem stepRunsTheDecodedOperation : Obligations.StepRunsTheDecodedOperation := by
  intro s k o rest i ha hport hd
  refine ⟨fun hag hc => ?_, fun c more hag hc => ?_⟩
  · rw [step_of_agenda_nil hag, transition_of_canAccept hc ha hport hd]
  · rw [step_of_agenda_run hag]
    exact transition_of_canAccept hc ha hport hd

/-- Settles O31: the step runs the operation of the latched request with a default value, and no busy
context looks at the value (`exec_busy_eq`). -/
theorem stepContinuesTheLatchedOperation : Obligations.StepContinuesTheLatchedOperation := by
  intro s c more k i hag hc hh hp hr
  have hcur : ({ s with ctx := c, agenda := more } : State).cur? = some k := hc
  rw [step_of_agenda_run hag, transition_of_busy hcur hh hp hr, ← exec_busy_eq hcur hp]
end

section
/-!
PROOFS. The statement about the priority byte (44_priority_field.md). Its round trips stand with the layouts;
what is added here is the value of a field as a number, of which the two nibbles of a byte are instances.
-/

namespace Sys2Proof.Machine

/-- The value of a field (41_bitfield_codec.md R105): drop the bits below it, keep `k` of the rest. -/
theorem toNat_getField {n : Nat} (raw : BitVec n) (lo k : Nat) :
    (getField raw lo k).toNat = raw.toNat / 2 ^ lo % 2 ^ k := by
  rw [getField, BitVec.extractLsb'_toNat, Nat.shiftRight_eq_div_pow]

/-- The class is the high nibble (R191); the mask to 4 bits cuts nothing, since a byte is below 256. -/
theorem toNat_decodePrio_cls (b : BitVec 8) : (decodePrio b).cls.toNat = b.toNat / 16 := by
  have hb : b.toNat / 16 < 16 := Nat.div_lt_of_lt_mul b.isLt
  calc (getField b 4 4).toNat
      _ = b.toNat / 16 % 16 := toNat_getField b 4 4
      _ = b.toNat / 16 := Nat.mod_eq_of_lt hb

/-- The sub-class is the low nibble (R191). -/
theorem toNat_decodePrio_subClass (b : BitVec 8) : (decodePrio b).subClass.toNat = b.toNat % 16 := by
  calc (getField b 0 4).toNat
      _ = b.toNat / 1 % 16 := toNat_getField b 0 4
      _ = b.toNat % 16 := by rw [Nat.div_one]

theorem toNat_mkPriority_cls {m n : Nat} (c : BitVec m) (s : BitVec n) :
    (mkPriority c s).cls.toNat = c.toNat % 16 :=
  BitVec.toNat_setWidth 4 c

theorem toNat_mkPriority_subClass {m n : Nat} (c : BitVec m) (s : BitVec n) :
    (mkPriority c s).subClass.toNat = s.toNat % 16 :=
  BitVec.toNat_setWidth 4 s

end Sys2Proof.Machine

open Sys2Proof Sys2Proof.Machine

/-- Settles O56: the two round trips of the layouts' proofs, the nibbles of a byte as numbers, and the
builder's cut to 4 bits. -/
theorem priorityByteRoundTrips : Obligations.PriorityByteRoundTrips :=
  ⟨encodePrio_decodePrio, decodePrio_encodePrio,
    fun b => ⟨toNat_decodePrio_cls b, toNat_decodePrio_subClass b⟩,
    fun _ _ c s => ⟨toNat_mkPriority_cls c s, toNat_mkPriority_subClass c s⟩⟩
end

section
/-!
PROOFS. The statements about the register access (45_register_access.md): the capability check, and that no
write event ever reaches a ReadOnly register. An admitted write is of a register that is not ReadOnly, so what
is left to show is that the slots of two registers differ.
-/

namespace Sys2Proof.Machine

/-! ### The capability check -/

/-- The two fatal cases of the check (R203). -/
theorem capCheck_eq_some_iff {cap : Capability} {dir : Dir} {f : FatalCode} :
    capCheck cap dir = some f ↔
      (dir = .write ∧ cap = .readOnly ∧ f = .readOnlyViolation) ∨
        (dir = .read ∧ cap = .writeOnly ∧ f = .writeOnlyViolation) := by
  cases dir with
  | write => cases cap <;> simp [capCheck, eq_comm]
  | read => cases cap <;> simp [capCheck, eq_comm]

/-- The ReadOnly registers: five by their tag, the APR by its parameter (10_state.md R25, R26). -/
theorem capability_eq_readOnly_iff {p : Params} {reg : Reg} :
    capability p reg = .readOnly ↔
      reg ∈ ([.lapicVer, .lapicPpr, .lapicTmrCur, .ioapicVer, .ioapicArb] : List Reg) ∨
        (reg = .lapicApr ∧ p.aprCapability = .readOnly) := by
  cases reg with
  | lapicApr => cases hp : p.aprCapability <;> simp [capability, hp]
  | _ => simp [capability]

/-- No register is WriteOnly (10_state.md R27): else a read of it would fail the check, which every read
passes. -/
theorem capability_ne_writeOnly (p : Params) (reg : Reg) : capability p reg ≠ .writeOnly := by
  intro h
  have hread := capCheck_read p reg
  rw [h] at hread
  cases hread

/-! ### The slots of two registers -/

/-- A register that exists is known by its low slot: the decoder names it (30_encoding.md R62). -/
theorem reg_eq_of_low_eq {p : Params} {q r : Reg} (hq : q.wf p = true) (hr : r.wf p = true)
    (h : q.slots.low = r.slots.low) : q = r := by
  have hdq := decodeReg_eq_ok_iff.mpr ⟨hq, rfl⟩
  have hdr := decodeReg_eq_ok_iff.mpr ⟨hr, rfl⟩
  rw [h] at hdq
  exact Except.ok.inj (hdq.symm.trans hdr)

/-- The high slot of a wide register is no register's low slot: 0x310 is in no row of 10_state.md R25, and
the high index of a redirection entry is odd (R26). -/
theorem low_ne_high_of_wf {p : Params} {q r : Reg} (hq : q.wf p = true) {h : Addr}
    (hh : r.slots.high = some h) : q.slots.low ≠ h := by
  intro hlow
  cases r with
  | lapicIcr =>
    obtain rfl : Addr.lapic 0x310 = h := Option.some.inj hh
    obtain ⟨-, hne⟩ := low_lapic hlow
    exact hne rfl
  | ioapicRedir n =>
    obtain rfl : Addr.ioapic (BitVec.ofNat 8 (0x11 + 2 * n.val)) = h := Option.some.inj hh
    have hindex : (BitVec.ofNat 8 (0x11 + 2 * n.val)).toNat = 0x11 + 2 * n.val :=
      Nat.mod_eq_of_lt (by omega)
    have hkinds := low_ioapic hq hlow
    rw [hindex] at hkinds
    rcases hkinds with hsmall | ⟨m, -, heven⟩ <;> omega
  | _ => cases hh

/-! ### Writes on the bus -/

/-- A ReadOnly register exists under all parameters and has one slot (10_state.md R25, R26). -/
theorem wf_and_high_eq_none_of_readOnly {p : Params} {q : Reg} (h : capability p q = .readOnly) :
    q.wf p = true ∧ q.slots.high = none := by
  cases q with
  | lapicIcr | ioapicRedir n => cases h
  | _ => exact ⟨rfl, rfl⟩

/-- An operation that CapCheck lets through does not write a ReadOnly register (R203). -/
theorem Admitted.writable {p : Params} {r : Request} (h : Admitted p r) (hd : r.dir = .write) :
    capability p r.reg ≠ .readOnly := by
  obtain ⟨-, hcheck⟩ := h
  intro hcap
  rw [hcap, hd] at hcheck
  cases hcheck

/-- No write access of an admitted operation is to a slot of a ReadOnly register. -/
theorem Admitted.write_avoids_readOnly {p : Params} {r : Request} {a : Addr} {q : Reg}
    (hr : Admitted p r) (ha : (Dir.write, a) ∈ targets p r) (hq : capability p q = .readOnly) :
    a ≠ q.slots.low ∧ q.slots.high ≠ some a := by
  obtain ⟨hwfq, hnarrow⟩ := wf_and_high_eq_none_of_readOnly hq
  obtain ⟨hd, hslot⟩ := mem_targets.mp ha
  have ⟨hwfr, _⟩ := hr
  refine ⟨fun hlow => ?_, by simp [hnarrow]⟩
  rcases hslot with rfl | hhigh
  · have hreg : r.reg = q := reg_eq_of_low_eq hwfr hwfq hlow
    exact hr.writable hd.symm (hreg ▸ hq)
  · exact low_ne_high_of_wf hwfq hhigh hlow.symm

/-- A bus event after a step stood in the history before it, or is an access of an admitted operation
(R203). -/
theorem State.Inv.event_old_or_admitted {s t : State} (hs : s.Inv) (h : step s = .next t) {e : BusEvent}
    (he : Entry.bus e ∈ t.history) :
    Entry.bus e ∈ s.history ∨ ∃ r, Admitted s.params r ∧ (e.dir, e.addr) ∈ targets s.params r := by
  rcases step_history h with ⟨-, hnil⟩ | ⟨new, happ, hm⟩
  · rw [hnil] at he
    cases he
  · rw [happ, List.mem_append] at he
    refine he.imp_right fun hnew => ?_
    rcases hm with rfl | ⟨c, k, k', hk, hm⟩
    · cases hnew
    · obtain ⟨-, hadmitted⟩ := hm.event_admitted (hs.consistent hk) hnew
      exact hadmitted

end Sys2Proof.Machine

/-! ### The statements -/

open Sys2Proof Sys2Proof.Machine

/-- Settles O45: a write event of the old history is as before, since no step changes a capability, and a
new one is an access of an admitted operation. -/
theorem noWriteEverReachesAReadOnlyRegister : Obligations.NoWriteEverReachesAReadOnlyRegister := by
  intro s t hs hold h e he hwrite q hq
  obtain ⟨hp, -, -⟩ := parametersNeverChange s t h
  rw [hp] at hq
  rcases hs.event_old_or_admitted h he with hmem | ⟨r, hadm, htarget⟩
  · exact hold e hmem hwrite q hq
  · rw [hwrite] at htarget
    exact hadm.write_avoids_readOnly htarget hq

/-- Settles O58: the check and the ReadOnly registers by the lemmas above, the numbers by evaluation. -/
theorem capabilityCheckAndResultNumbers : Obligations.CapabilityCheckAndResultNumbers :=
  ⟨fun _ _ _ => capCheck_eq_some_iff, fun _ _ => capability_eq_readOnly_iff, capability_ne_writeOnly, rfl⟩
end

section
/-!
PROOFS. The layouts of the Local APIC registers as slices and concatenations of bits, the form in which the
statements about its operations write them. Encode is a union of fields put in place, lowest first
(41_bitfield_codec.md R105), and so is a concatenation (`putField_append`); a field of two joined slots is a
field of one of them (R124).
-/

namespace Sys2Proof.Machine

/-! ### A concatenation is a union of fields -/

/-- A word is known by what it is as a field of its own width. -/
theorem eq_of_eq_putField {n : Nat} {x w : BitVec n} (h : x = putField n w 0) : x = w := by
  rw [h, putField, BitVec.shiftLeft_zero, BitVec.setWidth_eq]

/-- Two fields put in place together: the low one, and the high one above it. -/
theorem putField_append {n m k lo : Nat} (x : BitVec m) (y : BitVec k) :
    putField n (x ++ y) lo = putField n y lo ||| putField n x (lo + k) := by
  refine BitVec.eq_of_getLsbD_eq fun i hi => ?_
  rw [BitVec.getLsbD_or, getLsbD_putField _ lo i hi, getLsbD_putField _ lo i hi,
    getLsbD_putField _ (lo + k) i hi, BitVec.getLsbD_append, Nat.sub_add_eq]
  by_cases hy : i - lo < k
  · simp [hy, show ¬ lo + k ≤ i by omega]
  · have hlo : lo + k ≤ i ↔ lo ≤ i := by omega
    simp [hy, hlo, BitVec.getLsbD_of_ge y (i - lo) (Nat.not_lt.mp hy)]

/-- A reserved field of zeros adds nothing. -/
@[simp] theorem putField_zero {n k : Nat} (lo : Nat) : putField n (0#k) lo = 0#n := by
  simp [putField]

/-- A flag is a field of one bit. -/
@[simp] theorem putField_ofBool {n : Nat} (b : Bool) (j : Nat) :
    putField n (BitVec.ofBool b) j = putFlag n b j := by
  cases b with
  | false => exact putField_zero j
  | true =>
    have hone : (BitVec.ofBool true).setWidth n = 1#n :=
      BitVec.setWidth_ofNat_one_eq_ofNat_one_of_lt Nat.one_pos
    rw [putField, hone]
    rfl

/-! ### Encoded words -/

theorem encodeLogicalDest_eq_append (v : LogicalDest) : encodeLogicalDest v = v.logicalId ++ 0#24 := by
  refine eq_of_eq_putField ?_
  rw [putField_append]
  simp [encodeLogicalDest]

theorem encodeSpuriousVector_eq_append (v : SpuriousVector) :
    encodeSpuriousVector v =
      0#19 ++ BitVec.ofBool v.eoiBroadcastSuppression ++ 0#2 ++ BitVec.ofBool v.focusCheck ++
        BitVec.ofBool v.apicEnable ++ v.vector := by
  refine eq_of_eq_putField ?_
  repeat rw [putField_append]
  simp [encodeSpuriousVector, BitVec.or_assoc]

theorem encodeErrorStatus_eq_append (v : ErrorStatus) :
    encodeErrorStatus v =
      0#24 ++ BitVec.ofBool v.e7 ++ BitVec.ofBool v.e6 ++ BitVec.ofBool v.e5 ++ BitVec.ofBool v.e4 ++
        BitVec.ofBool v.e3 ++ BitVec.ofBool v.e2 ++ BitVec.ofBool v.e1 ++ BitVec.ofBool v.e0 := by
  refine eq_of_eq_putField ?_
  repeat rw [putField_append]
  simp [encodeErrorStatus, BitVec.or_assoc]

theorem encodeLvtEntry_eq_append (v : LvtEntry) :
    encodeLvtEntry v =
      0#15 ++ BitVec.ofBool v.mask ++ BitVec.ofBool v.trigger ++ BitVec.ofBool v.remoteIrr ++
        BitVec.ofBool v.polarity ++ BitVec.ofBool v.deliveryStatus ++ 0#1 ++
        lvtModeCode v.deliveryMode ++ v.vector := by
  refine eq_of_eq_putField ?_
  repeat rw [putField_append]
  simp [encodeLvtEntry, BitVec.or_assoc]

theorem encodeLvtTimer_eq_append (v : LvtTimer) :
    encodeLvtTimer v =
      0#13 ++ timerModeCode v.timerMode ++ BitVec.ofBool v.mask ++ BitVec.ofBool v.trigger ++
        BitVec.ofBool v.remoteIrr ++ BitVec.ofBool v.polarity ++ BitVec.ofBool v.deliveryStatus ++ 0#1 ++
        lvtModeCode v.deliveryMode ++ v.vector := by
  refine eq_of_eq_putField ?_
  repeat rw [putField_append]
  simp [encodeLvtTimer, BitVec.or_assoc]

theorem encodePrio_eq_append (p : Priority) : encodePrio p = p.cls ++ p.subClass := by
  refine eq_of_eq_putField ?_
  rw [putField_append, encodePrio, BitVec.or_comm]

theorem encodePriority_eq_append (p : Priority) : encodePriority p = 0#24 ++ p.cls ++ p.subClass := by
  refine eq_of_eq_putField ?_
  rw [encodePriority_eq_putField, encodePrio_eq_append]
  repeat rw [putField_append]
  simp

/-- The ICR's word is joined of its two slots (R120): the destination alone is in the high one. -/
theorem encodeIcr_eq_join (v : Icr) :
    encodeIcr v =
      join
        (0#12 ++ shorthandCode v.shorthand ++ 0#2 ++ BitVec.ofBool v.trigger ++ BitVec.ofBool v.level ++
          0#1 ++ BitVec.ofBool v.deliveryStatus ++ BitVec.ofBool v.destMode ++
          icrModeCode v.deliveryMode ++ v.vector)
        (v.destination ++ 0#24) := by
  rw [join_eq_append]
  refine eq_of_eq_putField ?_
  repeat rw [putField_append]
  simp [encodeIcr, BitVec.or_assoc]

/-! ### Decoded values -/

/-- The two nibbles of the low byte (44_priority_field.md R191, R194). -/
theorem decodePriority_eq_slices (raw : Word32) :
    decodePriority raw = { cls := raw.extractLsb' 4 4, subClass := raw.extractLsb' 0 4 } := by
  simp only [decodePriority, decodePrio, getField, extractLsb'_slice, Nat.reduceAdd, Nat.reduceLeDiff]

/-- A field inside the low slot. -/
theorem getField_join_low {low high : Word32} {lo k : Nat} (h : lo + k ≤ 32) :
    getField (join low high) lo k = low.extractLsb' lo k := by
  rw [join_eq_append]
  exact BitVec.extractLsb'_append_eq_of_add_le h

/-- A field inside the high slot. -/
theorem getField_join_high {low high : Word32} {lo k : Nat} (h : 32 ≤ lo) :
    getField (join low high) lo k = high.extractLsb' (lo - 32) k := by
  rw [join_eq_append]
  exact BitVec.extractLsb'_append_eq_of_le h

/-- A flag inside the low slot. -/
theorem getFlag_join_low {low high : Word32} {i : Nat} (h : i < 32) :
    getFlag (join low high) i = low.getLsbD i := by
  rw [join_eq_append, getFlag, BitVec.getLsbD_append, if_pos h]

/-- The fields of the ICR, each in its slot (R120). -/
theorem decodeIcr_join (low high : Word32) :
    decodeIcr (join low high) =
      { vector := low.extractLsb' 0 8, deliveryMode := icrModeOfCode (low.extractLsb' 8 3),
        destMode := low.getLsbD 11, deliveryStatus := low.getLsbD 12, level := low.getLsbD 14,
        trigger := low.getLsbD 15, shorthand := shorthandOfCode (low.extractLsb' 18 2),
        destination := high.extractLsb' 24 8 } := by
  simp [decodeIcr, getField_join_low, getField_join_high, getFlag_join_low]

/-- The code of the divisor is bit 3 over bits[1:0] (42_scattered_divisor.md R150). -/
theorem gather_eq_append (raw : Word32) : gather raw = raw.extractLsb' 3 1 ++ raw.extractLsb' 0 2 := by
  refine eq_of_eq_putField ?_
  rw [putField_append, gather, BitVec.or_comm]
  rfl

/-- A rotation by a 3-bit code stays below the width, so `rotl_8` is the library's (00_scope.md R10). -/
theorem rotl8_eq_rotateLeft (x : BitVec 8) (c : BitVec 3) : rotl8 x c.toNat = x.rotateLeft c.toNat :=
  (BitVec.rotateLeft_eq_rotateLeftAux_of_lt c.isLt).symm

/-- The divisor is 2 rotated left by the code (R151). -/
theorem decodeDivisor_eq_rotateLeft (raw : Word32) :
    decodeDivisor raw =
      { divisor :=
          ((2 : BitVec 8).rotateLeft (raw.extractLsb' 3 1 ++ raw.extractLsb' 0 2).toNat).setWidth 32 } := by
  rw [decodeDivisor, rotl8_eq_rotateLeft, gather_eq_append]

/-- The inverse lookup names the divisor it does not find (R153, 60_exceptions.md R302). -/
theorem eq_invalidDivisor_of_encodeDivisor {v : Divisor} {e : OpError} (h : encodeDivisor v = .error e) :
    e = .invalidDivisor v.divisor := by
  unfold encodeDivisor at h
  split at h
  · cases h
  · exact (Except.error.inj h).symm

end Sys2Proof.Machine
end

section
/-!
PROOFS. The statements about the Local APIC operations (46_lapic_ops.md). A meaning is one of the shared
operations of its register, so it runs as that one does (Laws/Runs.lean); what a statement adds is its word,
which the decoder names by the register's slot, and its layout, which stands above as slices and
concatenations.
-/

namespace Sys2Proof.Machine

/-! ### The word of an operation -/

/-- The word of a register that exists selects the register's operation, with the value of its lane. -/
theorem decode_of_encode_eq {p : Params} {r : Request} {w : Word16} (hw : r.encode = w)
    (hreg : r.reg.wf p = true) (v : ValuePort) : decode p ⟨w, v⟩ = .ok (Instr.ofRequest r v) :=
  decode_of_decodeReq ((decodeReqAcceptsExactlyTheIndexedWords p w r).mpr ⟨hreg, hw⟩)

/-- A register of one slot exists under all parameters (10_state.md R25, R26). -/
theorem wf_of_slots_eq {reg : Reg} {a : Addr} (hs : reg.slots = { low := a }) (p : Params) :
    reg.wf p = true := by
  cases reg with
  | ioapicRedir n => cases hs
  | _ => rfl

/-! ### Reads and writes of one slot -/

/-- A read whose every word decodes answers `OK` with the decoded value. All but `hdec` are facts of one row of
the register index, true by evaluation. -/
theorem runsRead_of_decode {w : Word16} {i : Instr} {reg : Reg} {a : Addr} {value : Params → Word32 → Value}
    (dec : Params → Word32 → Value) (hw : Request.encode ⟨reg, .read⟩ = w)
    (ho : ∀ v, Instr.ofRequest ⟨reg, .read⟩ v = i) (hs : reg.slots = { low := a })
    (hi : ∀ s, exec i s = readOp32 reg (fun raw => .ok (dec s.params raw)) s)
    (hdec : ∀ p raw, dec p raw = value p raw) :
    RunsRead w i reg a (fun p d => (.ok, .value (value p d))) := by
  refine runsRead_of_readOp32 (fun p raw => .ok (dec p raw)) (fun p v => ?_) hi hs fun p raw => ?_
  · rw [decode_of_encode_eq hw (wf_of_slots_eq hs p), ho]
  · rw [← hdec]
    rfl

/-- A write of a ReadWrite register writes the encoded value. All but `henc` are facts of one row of the
register index, true by evaluation. -/
theorem runsWrite_of_encode {α : Type} {w : Word16} {lane : ValuePort → α} {i : α → Instr} {reg : Reg}
    {a : Addr} {raw : Params → α → Word32} (enc : Params → α → Word32)
    (hw : Request.encode ⟨reg, .write⟩ = w) (ho : ∀ v, Instr.ofRequest ⟨reg, .write⟩ v = i (lane v))
    (hs : reg.slots = { low := a }) (hcap : ∀ p, capability p reg = .readWrite)
    (hi : ∀ v s, exec (i v) s = writeOp32 reg (.ok (enc s.params v)) s)
    (henc : ∀ p v, enc p v = raw p v) : RunsWrite w lane i reg a raw := by
  refine ⟨fun p v => ?_, fun v s k hc ha => ?_⟩
  · rw [decode_of_encode_eq hw (wf_of_slots_eq hs p), ho]
  · refine writesSlot_of_writeOp32 (fun t ht => ?_) hs (by rw [hcap]; rfl) hc ha
    rw [hi, ht, henc]

/-! ### Accept of a value that does not encode -/

/-- Accept, when encode fails: the response alone (60_exceptions.md R306). -/
theorem accept_of_error {r : Request} {e : OpError} {k : Context} {s : State}
    (h : capCheck (capability s.params r.reg) r.dir = none) :
    accept r (.error e) k s = s.respond (errorResult e) (.error e) := by
  simp only [accept, h, takeRecoverable]

/-! ### Which operations answer `InvalidEncoding` -/

/-- The model field of the DFR: flat, cluster, or the recoverable error with the field (R114). -/
theorem resultResponse_decodeDestFormat (d : Word32) :
    resultResponse (((decodeDestFormat d).map Value.destFormat).map some) =
      if d.extractLsb' 28 4 = 0xF then (.ok, .value (.destFormat .flat))
      else if d.extractLsb' 28 4 = 0x0 then (.ok, .value (.destFormat .cluster))
      else (.invalidEncoding, .error (.invalidEncoding .dfrModel (d.extractLsb' 28 4))) := by
  unfold decodeDestFormat getField
  dsimp only
  split
  · rfl
  · split
    · rfl
    · rfl

/-- A read whose every word decodes completes with `OK`. -/
theorem finishRead32_code {f : Word32 → Value} {x : Instance} {res : OpResult}
    (h : finishRead32 (fun raw => .ok (f raw)) x = .ok res) : (resultResponse res).1 = .ok := by
  unfold finishRead32 at h
  split at h
  · cases h
  · cases h; rfl

/-- A wide read completes with `OK`. -/
theorem finishRead64_code {dec : Word64 → Value} {x : Instance} {res : OpResult}
    (h : finishRead64 dec x = .ok res) : (resultResponse res).1 = .ok := by
  unfold finishRead64 at h
  split at h
  · cases h; rfl
  · cases h

/-- A write completes with `OK`. -/
theorem finishWrite_code {x : Instance} {res : OpResult} (h : finishWrite x = .ok res) :
    (resultResponse res).1 = .ok := by
  cases h; rfl

/-- Of the operations other than the read of the DFR only the write of the DCR can fail, at Accept and with
`InvalidDivisor` (60_exceptions.md R301, R302). -/
theorem exec_completes_ok {i : Instr} (hne : i ≠ .rdLapicDfr) (s : State) :
    ∃ (ops : Except OpError (List BusOp)) (fin : Instance → Except Fault OpResult),
      exec i s = operate i.request ops fin s ∧
      (∀ e, ops = .error e → errorResult e = .invalidDivisor) ∧
      ∀ x res, fin x = .ok res → (resultResponse res).1 = .ok := by
  cases i with
  | rdLapicDfr => exact absurd rfl hne
  | rdLapicId | rdLapicVer | rdLapicTpr | rdLapicApr | rdLapicPpr | rdLapicEoi | rdLapicLdr | rdLapicSvr
  | rdLapicEsr | rdLapicLvtCmci | rdLapicLvtTimer | rdLapicLvtThermal | rdLapicLvtPerf | rdLapicLvtLint0
  | rdLapicLvtLint1 | rdLapicLvtError | rdLapicTmrInit | rdLapicTmrCur | rdLapicDcr | rdIoapicId
  | rdIoapicVer | rdIoapicArb =>
    exact ⟨_, _, rfl, nofun, fun _ _ => finishRead32_code⟩
  | rdLapicIcr | rdIoapicRedir n => exact ⟨_, _, rfl, nofun, fun _ _ => finishRead64_code⟩
  | wrLapicDcr v =>
    refine ⟨_, finishWrite, rfl, fun e he => ?_, fun _ _ => finishWrite_code⟩
    cases hv : encodeDivisor v with
    | ok raw => rw [hv] at he; cases he
    | error e' =>
      rw [hv] at he
      cases he
      rw [eq_invalidDivisor_of_encodeDivisor hv]
      rfl
  | _ => exact ⟨_, finishWrite, rfl, (fun _ he => by cases he), fun _ _ => finishWrite_code⟩

/-- No transition of an operation other than the read of the DFR answers `InvalidEncoding`: what Accept can
answer is a fatal code or `InvalidDivisor`, and Complete answers `OK`. -/
theorem code_ne_invalidEncoding {i : Instr} (hne : i ≠ .rdLapicDfr) {s t : State} (h : exec i s = .next t)
    {r : Response} (hr : t.history = s.history ++ [.rsp r]) : r.code ≠ .invalidEncoding := by
  obtain ⟨ops, fin, hexec, hops, hfin⟩ := exec_completes_ok hne s
  rw [hexec] at h
  obtain ⟨k, -, hcases⟩ := operate_cases h
  rcases hcases with rfl | ⟨-, -, -, rfl⟩ | ⟨-, -, -, ⟨op, rest, -, rfl⟩ | ⟨res, -, hres, rfl⟩⟩
  · simp at hr
  · rcases accept_cases i.request ops k s with ⟨l, -, -, hacc⟩ | ⟨e, he, -, hacc⟩ | ⟨f, -, hacc⟩
    · simp [hacc] at hr
    · obtain rfl : _ = r := by simpa [hacc] using hr
      simp [hops e he]
    · obtain rfl : _ = r := by simpa [hacc] using hr
      cases f <;> simp [fatalResult]
  · cases op <;> simp [issue_eq] at hr
  · obtain rfl : _ = r := by simpa [complete_eq] using hr
    simp [hfin k.inst res hres]

end Sys2Proof.Machine

/-! ### The statements about reads -/

open Sys2Proof Sys2Proof.Machine

/-- Settles O1: the layouts are slices of the word by definition. -/
theorem lapicIdAndVersionReadsRun : Obligations.LapicIdAndVersionReadsRun :=
  ⟨runsRead_of_decode (fun p raw => .apicId (decodeApicId p.lapicIdWidth raw))
      rfl (fun _ => rfl) rfl (fun _ => rfl) fun _ _ => rfl,
    runsRead_of_decode (fun _ raw => .lapicVersion (decodeLapicVersion raw))
      rfl (fun _ => rfl) rfl (fun _ => rfl) fun _ _ => rfl⟩

/-- Settles O2: the three registers have one layout (`decodePriority_eq_slices`). -/
theorem priorityReadsRun : Obligations.PriorityReadsRun := by
  refine ⟨?_, ?_, ?_⟩
  all_goals
    exact runsRead_of_decode (fun _ raw => .priority (decodePriority raw))
      rfl (fun _ => rfl) rfl (fun _ => rfl)
      fun _ raw => congrArg Value.priority (decodePriority_eq_slices raw)

/-- Settles O3: the word is its own value. -/
theorem rawWordReadsRun : Obligations.RawWordReadsRun := by
  refine ⟨?_, ?_, ?_⟩
  all_goals
    exact runsRead_of_decode (fun _ raw => .word (decodeWord raw))
      rfl (fun _ => rfl) rfl (fun _ => rfl) fun _ _ => rfl

/-- Settles O4: the layouts are slices of the word by definition. -/
theorem ldrSvrEsrReadsRun : Obligations.LdrSvrEsrReadsRun :=
  ⟨runsRead_of_decode (fun _ raw => .logicalDest (decodeLogicalDest raw))
      rfl (fun _ => rfl) rfl (fun _ => rfl) fun _ _ => rfl,
    runsRead_of_decode (fun _ raw => .spuriousVector (decodeSpuriousVector raw))
      rfl (fun _ => rfl) rfl (fun _ => rfl) fun _ _ => rfl,
    runsRead_of_decode (fun _ raw => .errorStatus (decodeErrorStatus raw))
      rfl (fun _ => rfl) rfl (fun _ => rfl) fun _ _ => rfl⟩

/-- Settles O5: the answer of the read is the layout's, and `code_ne_invalidEncoding` for every other
operation. -/
theorem destFormatReadRuns : Obligations.DestFormatReadRuns := by
  refine ⟨?_, fun i s t c payload h hr => ?_⟩
  · exact runsRead_of_readOp32 (fun _ raw => (decodeDestFormat raw).map .destFormat)
      (fun _ => decode_of_encode_eq (r := ⟨.lapicDfr, .read⟩) rfl rfl) (fun _ => rfl) rfl
      fun _ => resultResponse_decodeDestFormat
  · by_contra hne
    exact code_ne_invalidEncoding hne h hr rfl

/-- Settles O6: the six entries have one layout, which is slices of the word by definition. -/
theorem lvtEntryReadsRun : Obligations.LvtEntryReadsRun := by
  intro x hx
  simp only [List.mem_cons, List.not_mem_nil, or_false] at hx
  obtain rfl | rfl | rfl | rfl | rfl | rfl := hx
  all_goals
    dsimp only
    exact runsRead_of_decode (fun _ raw => .lvtEntry (decodeLvtEntry raw))
      rfl (fun _ => rfl) rfl (fun _ => rfl) fun _ _ => rfl

/-- Settles O7: the layout is slices of the word by definition. -/
theorem lvtTimerReadRuns : Obligations.LvtTimerReadRuns :=
  runsRead_of_decode (fun _ raw => .lvtTimer (decodeLvtTimer raw))
    rfl (fun _ => rfl) rfl (fun _ => rfl) fun _ _ => rfl

/-- Settles O8: the divisor is the rotation of `decodeDivisor_eq_rotateLeft`. -/
theorem divisorReadRuns : Obligations.DivisorReadRuns :=
  runsRead_of_decode (fun _ raw => .divisor (decodeDivisor raw))
    rfl (fun _ => rfl) rfl (fun _ => rfl)
    fun _ raw => congrArg Value.divisor (decodeDivisor_eq_rotateLeft raw)

/-- Settles O10: the joined word's fields each lie in one slot (`decodeIcr_join`). -/
theorem icrReadRuns : Obligations.IcrReadRuns :=
  runsSplitRead_of_readOp64 (fun raw => .icr (decodeIcr raw))
    (fun _ v hreg => decode_of_encode_eq (r := ⟨.lapicIcr, .read⟩) rfl hreg v) (fun _ => rfl) rfl
    fun low high => congrArg Value.icr (decodeIcr_join low high)

/-! ### The statements about writes -/

/-- Settles O12: an identifier is cut and put in place as `put` does, the other three words are
concatenations of their fields. -/
theorem idLdrSvrEsrWritesRun : Obligations.IdLdrSvrEsrWritesRun :=
  ⟨runsWrite_of_encode (fun p => encodeApicId p.lapicIdWidth)
      rfl (fun _ => rfl) rfl (fun _ => rfl) (fun _ _ => rfl) fun _ _ => rfl,
    runsWrite_of_encode (fun _ => encodeLogicalDest)
      rfl (fun _ => rfl) rfl (fun _ => rfl) (fun _ _ => rfl) fun _ => encodeLogicalDest_eq_append,
    runsWrite_of_encode (fun _ => encodeSpuriousVector)
      rfl (fun _ => rfl) rfl (fun _ => rfl) (fun _ _ => rfl) fun _ => encodeSpuriousVector_eq_append,
    runsWrite_of_encode (fun _ => encodeErrorStatus)
      rfl (fun _ => rfl) rfl (fun _ => rfl) (fun _ _ => rfl) fun _ => encodeErrorStatus_eq_append⟩

/-- Settles O13: the word is the concatenation of `encodePriority_eq_append`. -/
theorem tprWriteRuns : Obligations.TprWriteRuns :=
  runsWrite_of_encode (fun _ => encodePriority)
    rfl (fun _ => rfl) rfl (fun _ => rfl) (fun _ _ => rfl) fun _ => encodePriority_eq_append

/-- Settles O14: the capability check is the parameter's, and where it passes the word is the priority
byte. -/
theorem aprWriteFollowsItsCapability : Obligations.AprWriteFollowsItsCapability := by
  refine ⟨fun p v => decode_of_encode_eq (r := ⟨.lapicApr, .write⟩) rfl rfl v, fun v s k hc ha => ?_⟩
  split
  · next hp =>
    have hcap : capability s.params .lapicApr = .readOnly := by rw [capability, hp]
    exact raisesReadOnly_of_writeOp32 rfl hcap hc ha
  · next hp =>
    have hcap : capability s.params .lapicApr = .readWrite := by rw [capability, hp]
    rw [← encodePriority_eq_append]
    exact writesSlot_of_writeOp32 (fun _ _ => rfl) rfl (by rw [hcap]; rfl) hc ha

/-- Settles O15: the word is its own encoding. -/
theorem rawWordWritesRun : Obligations.RawWordWritesRun := by
  refine ⟨?_, ?_⟩
  all_goals
    exact runsWrite_of_encode (fun _ => encodeWord)
      rfl (fun _ => rfl) rfl (fun _ => rfl) (fun _ _ => rfl) fun _ _ => rfl

/-- Settles O16: the word of each of the two formats, by evaluation of the layout. -/
theorem destFormatWriteRuns : Obligations.DestFormatWriteRuns := by
  refine runsWrite_of_encode (fun _ => encodeDestFormat)
    rfl (fun _ => rfl) rfl (fun _ => rfl) (fun _ _ => rfl) fun _ v => ?_
  cases v with
  | cluster => rfl
  | flat => rfl

/-- Settles O17: the six entries have one layout (`encodeLvtEntry_eq_append`). -/
theorem lvtEntryWritesRun : Obligations.LvtEntryWritesRun := by
  intro x hx
  simp only [List.mem_cons, List.not_mem_nil, or_false] at hx
  obtain rfl | rfl | rfl | rfl | rfl | rfl := hx
  all_goals
    dsimp only
    exact runsWrite_of_encode (fun _ => encodeLvtEntry)
      rfl (fun _ => rfl) rfl (fun _ => rfl) (fun _ _ => rfl) fun _ => encodeLvtEntry_eq_append

/-- Settles O18: the word is the concatenation of `encodeLvtTimer_eq_append`. -/
theorem lvtTimerWriteRuns : Obligations.LvtTimerWriteRuns :=
  runsWrite_of_encode (fun _ => encodeLvtTimer)
    rfl (fun _ => rfl) rfl (fun _ => rfl) (fun _ _ => rfl) fun _ => encodeLvtTimer_eq_append

/-- Settles O19: the rows of the table encode, a divisor of no row is answered at Accept, both by the
statement about the table (`divisorCodecMatchesItsTable`). -/
theorem divisorWriteFollowsItsTable : Obligations.DivisorWriteFollowsItsTable := by
  obtain ⟨-, hrows, houtside, -⟩ := divisorCodecMatchesItsTable
  have hexec (v : Divisor) (t : State) :
      exec (.wrLapicDcr v) t = writeOp32 .lapicDcr (encodeDivisor v) t := rfl
  refine ⟨fun p v => decode_of_encode_eq (r := ⟨.lapicDcr, .write⟩) rfl rfl v, fun s k hc ha =>
    ⟨fun row hrow => ?_, fun d hd => ?_⟩⟩
  · refine writesSlot_of_writeOp32 (fun t _ => ?_) rfl rfl hc ha
    rw [hexec, hrows row hrow]
  · have hencode : encodeDivisor { divisor := d } = .error (.invalidDivisor d) := houtside d hd
    rw [hexec, hencode, writeOp32, operate_idle hc ha]
    exact congrArg Host.Outcome.next (accept_of_error rfl)

/-- Settles O21: the five registers are ReadOnly under all parameters, so the capability check fails before
encode (60_exceptions.md R308). -/
theorem readOnlyWritesLatchTheFault : Obligations.ReadOnlyWritesLatchTheFault := by
  refine ⟨fun p v => ?_, fun s k hc ha => ?_⟩
  · exact ⟨decode_of_encode_eq (r := ⟨.lapicVer, .write⟩) rfl rfl v,
      decode_of_encode_eq (r := ⟨.lapicPpr, .write⟩) rfl rfl v,
      decode_of_encode_eq (r := ⟨.lapicTmrCur, .write⟩) rfl rfl v,
      decode_of_encode_eq (r := ⟨.ioapicVer, .write⟩) rfl rfl v,
      decode_of_encode_eq (r := ⟨.ioapicArb, .write⟩) rfl rfl v⟩
  · refine ⟨fun _ => ?_, fun _ => ?_, fun _ => ?_, fun _ => ?_, fun _ => ?_⟩
    all_goals exact raisesReadOnly_of_writeOp32 rfl rfl hc ha

/-- Settles O22: the encoded word is joined of the two slots' words (`encodeIcr_eq_join`). -/
theorem icrWriteRuns : Obligations.IcrWriteRuns := by
  refine runsSplitWrite_of_writeOp64 encodeIcr
    (fun _ v hreg => decode_of_encode_eq (r := ⟨.lapicIcr, .write⟩) rfl hreg v) (fun _ _ => rfl) rfl
    (fun _ => rfl) (fun v => ?_) fun v => ?_
  all_goals obtain ⟨hhigh, hlow⟩ := join_eq_iff.mp (encodeIcr_eq_join v).symm
  · exact hlow.symm
  · exact hhigh.symm
end

section
/-!
PROOFS. The statements about the I/O APIC operations (47_ioapic_ops.md). The narrow registers run by the
lemmas that the Local APIC operations use. A redirection entry is a register for each `n`: its word is counted
from its low slot's index, and its layout is joined of two slots as the ICR's is (41_bitfield_codec.md R121).
-/

namespace Sys2Proof.Machine

/-! ### The word of a redirection entry -/

/-- The request word of an I/O APIC register: space `01`, the direction bit, the index (30_encoding.md R61). -/
theorem toNat_encode_of_low_ioapic {reg : Reg} {i : BitVec 8} (h : reg.slots.low = .ioapic i) (dir : Dir) :
    (Request.encode ⟨reg, dir⟩).toNat = 0x4000 + 0x2000 * dir.bit.toNat + i.toNat := by
  have hi : (i.setWidth 12).toNat = i.toNat := BitVec.toNat_setWidth_of_le (by decide)
  rw [Request.encode, h, Addr.fields, BitVec.toNat_append,
    ← Nat.shiftLeft_add_eq_or_of_lt (BitVec.isLt _), hi]
  cases dir with
  | read => simp [Dir.bit]
  | write => simp [Dir.bit]

/-- The request word of entry `n` counts from that of entry 0, two indices per entry (10_state.md R26). -/
theorem encode_ioapicRedir (n : Fin 120) (dir : Dir) :
    Request.encode ⟨.ioapicRedir n, dir⟩ =
      BitVec.ofNat 16 (0x4010 + 0x2000 * dir.bit.toNat + 2 * n.val) := by
  have hbit := dir.bit.isLt
  refine BitVec.eq_of_toNat_eq ?_
  rw [toNat_encode_of_low_ioapic (reg := .ioapicRedir n) rfl, BitVec.toNat_ofNat, BitVec.toNat_ofNat]
  omega

/-! ### The layout of a redirection entry -/

/-- The fields of a redirection entry, each in its slot (41_bitfield_codec.md R121). -/
theorem decodeRedirEntry_join (low high : Word32) :
    decodeRedirEntry (join low high) =
      { vector := low.extractLsb' 0 8, deliveryMode := redirModeOfCode (low.extractLsb' 8 3),
        destMode := low.getLsbD 11, deliveryStatus := low.getLsbD 12, polarity := low.getLsbD 13,
        remoteIrr := low.getLsbD 14, trigger := low.getLsbD 15, mask := low.getLsbD 16,
        destination := high.extractLsb' 24 8 } := by
  simp [decodeRedirEntry, getField_join_low, getField_join_high, getFlag_join_low]

/-- The entry's word is joined of its two slots (41_bitfield_codec.md R121): the destination alone is in the
high one, whatever the mode (log entry 11). -/
theorem encodeRedirEntry_eq_join (v : RedirEntry) :
    encodeRedirEntry v =
      join
        (0#15 ++ BitVec.ofBool v.mask ++ BitVec.ofBool v.trigger ++ BitVec.ofBool v.remoteIrr ++
          BitVec.ofBool v.polarity ++ BitVec.ofBool v.deliveryStatus ++ BitVec.ofBool v.destMode ++
          redirModeCode v.deliveryMode ++ v.vector)
        (v.destination ++ 0#24) := by
  rw [join_eq_append]
  refine eq_of_eq_putField ?_
  repeat rw [putField_append]
  simp [encodeRedirEntry, BitVec.or_assoc]

end Sys2Proof.Machine

/-! ### The statements -/

open Sys2Proof Sys2Proof.Machine

/-- Settles O9: the layouts are slices of the word by definition. -/
theorem ioapicNarrowReadsRun : Obligations.IoapicNarrowReadsRun :=
  ⟨runsRead_of_decode (fun p raw => .apicId (decodeApicId p.ioapicIdWidth raw))
      rfl (fun _ => rfl) rfl (fun _ => rfl) fun _ _ => rfl,
    runsRead_of_decode (fun _ raw => .ioapicVersion (decodeIoapicVersion raw))
      rfl (fun _ => rfl) rfl (fun _ => rfl) fun _ _ => rfl,
    runsRead_of_decode (fun p raw => .arbId (decodeArbId p.ioapicIdWidth raw))
      rfl (fun _ => rfl) rfl (fun _ => rfl) fun _ _ => rfl⟩

/-- Settles O11: the joined word's fields each lie in one slot (`decodeRedirEntry_join`). -/
theorem redirReadRuns : Obligations.RedirReadRuns := fun n =>
  runsSplitRead_of_readOp64 (fun raw => .redirEntry (decodeRedirEntry raw))
    (fun _ v hreg => decode_of_encode_eq (encode_ioapicRedir n .read) hreg v) (fun _ => rfl) rfl
    fun low high => congrArg Value.redirEntry (decodeRedirEntry_join low high)

/-- Settles O20: the identifier is cut and put in place as `put` does. -/
theorem ioapicIdWriteRuns : Obligations.IoapicIdWriteRuns :=
  runsWrite_of_encode (fun p => encodeApicId p.ioapicIdWidth)
    rfl (fun _ => rfl) rfl (fun _ => rfl) (fun _ _ => rfl) fun _ _ => rfl

/-- Settles O23: the encoded word is joined of the two slots' words (`encodeRedirEntry_eq_join`). -/
theorem redirWriteRuns : Obligations.RedirWriteRuns := by
  intro n
  refine runsSplitWrite_of_writeOp64 encodeRedirEntry
    (fun _ v hreg => decode_of_encode_eq (encode_ioapicRedir n .write) hreg v) (fun _ _ => rfl) rfl
    (fun _ => rfl) (fun v => ?_) fun v => ?_
  all_goals obtain ⟨hhigh, hlow⟩ := join_eq_iff.mp (encodeRedirEntry_eq_join v).symm
  · exact hlow.symm
  · exact hhigh.symm
end

section
/-!
PROOFS. The statements about errors (60_exceptions.md). What a step that is no reset does is said once from
the side of one context: the step passes it by, moves it, or leaves it stuck. A context that RawAccess left
stuck or that is idle under a latched fault is barred, and a barred one stands still in all three cases.
-/

namespace Sys2Proof.Machine

/-! ### A context that stands still -/

/-- In the step from `s` to `t` context `c` stays as it is, issues nothing and answers nothing. -/
def StandsStill (c : Nat) (s t : State) : Prop :=
  t.contexts[c]? = s.contexts[c]? ∧ eventsOf c t.history = eventsOf c s.history ∧
    responsesOf c t.history = responsesOf c s.history

theorem standsStill_of_history_eq {c : Nat} {s t : State} (hc : t.contexts[c]? = s.contexts[c]?)
    (hh : t.history = s.history) : StandsStill c s t :=
  ⟨hc, congrArg (eventsOf c) hh, congrArg (responsesOf c) hh⟩

/-- A transition of one context passes the others by (20_memory.md R48). -/
theorem Effect.standsStill_elsewhere {p : Params} {c d : Nat} {k k' : Context} {new : List Entry}
    {s t : State} (h : Effect c k k' new s t) (hm : Moved p c k k' new) (hd : d ≠ c) :
    StandsStill d s t := by
  obtain ⟨hevents, hresponses⟩ := hm.elsewhere hd
  refine ⟨h.elsewhere hd, ?_, ?_⟩
  · rw [h.history, eventsOf_append, hevents, List.append_nil]
  · rw [h.history, responsesOf_append, hresponses, List.append_nil]

/-! ### A step from the side of one context -/

/-- What a step that is no reset does to an existing context: it passes the context by, moves it by one
transition, or is a fault of RawAccess on its access in flight. -/
theorem step_at {s t : State} {c : Nat} {k : Context} (h : step s = .next t)
    (hr : s.agenda.head? ≠ some .reset) (hk : s.contexts[c]? = some k) :
    StandsStill c s t ∨
      (∃ k' new, Moved s.params c k k' new ∧ t.contexts[c]? = some k' ∧ t.history = s.history ++ new) ∨
      (k.inst.phase = .busy ∧ t.contexts[c]? = some { k with hung := true } ∧ t.history = s.history) := by
  rcases step_cases h with ⟨d, more, q, q', new, -, hm, hf, -⟩ |
    ⟨d, more, q, -, hq, rfl | ⟨hp, -, rfl⟩⟩ | ⟨more, ha, -⟩
  · by_cases hd : c = d
    · subst hd
      obtain rfl : q = k := Option.some.inj (hf.here.symm.trans hk)
      exact .inr (.inl ⟨q', new, hm, hf.there, hf.history⟩)
    · exact .inl (hf.standsStill_elsewhere hm hd)
  · exact .inl (standsStill_of_history_eq rfl rfl)
  · by_cases hd : c = d
    · subst hd
      obtain rfl : q = k := Option.some.inj (hq.symm.trans hk)
      have hlt : c < s.contexts.length := (List.getElem?_eq_some_iff.mp hk).1
      exact .inr (.inr ⟨hp, List.getElem?_set_self hlt, rfl⟩)
    · exact .inl (standsStill_of_history_eq (List.getElem?_set_ne (Ne.symm hd)) rfl)
  · exact absurd (congrArg List.head? ha) hr

/-! ### The fault latch -/

/-- No transition clears a latched fault: with one latched there is no Accept, and Issue and Complete do not
write the latch (R307). -/
theorem Moved.keeps_fault {p : Params} {c : Nat} {k k' : Context} {new : List Entry} {f : FatalCode}
    (h : Moved p c k k' new) (hf : k.inst.fault = some f) : k'.inst.fault = some f := by
  have hno : ¬ k.CanAccept := fun ⟨_, _, hnone⟩ => absurd (hf.symm.trans hnone) nofun
  cases h with
  | stays => exact hf
  | illegal _ _ _ ha | violation _ _ _ _ ha | recoverable _ _ _ _ ha | accepts _ _ _ _ ha =>
    exact absurd ha hno
  | issues => exact (Instance.issued_fault ..).trans hf
  | completes => exact hf

/-! ### Barred contexts -/

/-- RawAccess left the context stuck (R309), or it is idle under a latched fault (R307). -/
def Context.Barred (k : Context) : Prop :=
  k.hung = true ∨ (k.inst.phase = .idle ∧ k.inst.fault ≠ none)

theorem Context.Barred.not_canAccept {k : Context} (hb : k.Barred) : ¬ k.CanAccept := by
  rintro ⟨hh, -, hf⟩
  rcases hb with hung | ⟨-, hfault⟩
  · exact absurd (hh.symm.trans hung) nofun
  · exact hfault hf

/-- A barred context in phase Busy is stuck. -/
theorem Context.Barred.hung_of_busy {k : Context} (hb : k.Barred) (hp : k.inst.phase = .busy) :
    k.hung = true := by
  rcases hb with hung | ⟨hidle, -⟩
  · exact hung
  · exact absurd (hp.symm.trans hidle) nofun

/-- A barred context has no transition but to stay (R307, R309). -/
theorem Moved.of_barred {p : Params} {c : Nat} {k k' : Context} {new : List Entry}
    (h : Moved p c k k' new) (hb : k.Barred) : k' = k ∧ new = [] := by
  cases h with
  | stays => exact ⟨rfl, rfl⟩
  | illegal _ _ _ ha | violation _ _ _ _ ha | recoverable _ _ _ _ ha | accepts _ _ _ _ ha =>
    exact absurd ha hb.not_canAccept
  | issues _ _ _ _ hh hp | completes _ _ _ hh hp =>
    exact absurd (hh.symm.trans (hb.hung_of_busy hp)) nofun

/-- No step but a reset moves a barred context; a fault of RawAccess finds it idle or already stuck. -/
theorem step_standsStill_of_barred {s t : State} {c : Nat} {k : Context} (h : step s = .next t)
    (hr : s.agenda.head? ≠ some .reset) (hk : s.contexts[c]? = some k) (hb : k.Barred) :
    StandsStill c s t := by
  rcases step_at h hr hk with hstill | ⟨k', new, hm, hc, hhist⟩ | ⟨hp, hc, hhist⟩
  · exact hstill
  · obtain ⟨rfl, rfl⟩ := hm.of_barred hb
    exact standsStill_of_history_eq (hc.trans hk.symm) (hhist.trans (List.append_nil _))
  · have hsame : ({ k with hung := true } : Context) = k := by rw [← hb.hung_of_busy hp]
    exact standsStill_of_history_eq (hc.trans (hsame ▸ hk.symm)) hhist

/-! ### A fault of RawAccess -/

theorem step_of_agenda_backendFault {s : State} {c : Nat} {more : List Stimulus}
    (h : s.agenda = .backendFault c :: more) : step s = backendFault c { s with agenda := more } := by
  simp only [step, runAgenda, h, react]

/-- RawAccess faults on an access in flight (R309). -/
theorem backendFault_of_busy {s : State} {c : Nat} {k : Context} (hk : s.contexts[c]? = some k)
    (hp : k.inst.phase = .busy) (ho : k.inst.pending ≠ []) :
    backendFault c s = .next { s with contexts := s.contexts.set c { k with hung := true } } := by
  simp only [backendFault, hk]
  exact if_pos ⟨hp, ho⟩

/-! ### An illegal word -/

theorem decode_of_decodeReq_error {p : Params} {o : Offer} {e : Illegal}
    (h : decodeReq p o.word = .error e) : decode p o = .error e := by
  simp only [decode, h]

/-- The fatal error of an illegal word, field by field (R305, R307). -/
theorem unknownRegister_eq (w : Word16) (k : Context) (s : State) :
    unknownRegister w k s =
      { s.setCur (k.latched .unknownRegister) with
        history := s.history ++ [.rsp ⟨s.ctx, .unknownRegister, .word w⟩] } := rfl

/-- Accept of a word that does not decode takes it off the port and raises `UnknownRegister` (R305). -/
theorem transition_of_illegal {s : State} {k : Context} {o : Offer} {rest : List Offer} {e : Illegal}
    (hc : s.cur? = some k) (ha : k.CanAccept) (hport : k.port = o :: rest)
    (hd : decodeReq s.params o.word = .error e) :
    transition s =
      .next { s.setCur { k.latched .unknownRegister with port := rest } with
        history := s.history ++ [.rsp ⟨s.ctx, .unknownRegister, .word o.word⟩] } := by
  obtain ⟨hhung, hidle, hfault⟩ := ha
  have hdec := decode_of_decodeReq_error hd
  simp [transition, acceptOffer, hc, hhung, hidle, hfault, hport, hdec, unknownRegister_eq,
    Context.latched]

end Sys2Proof.Machine

/-! ### The statements -/

open Sys2Proof Sys2Proof.Machine

/-- Settles O36: no case of `step_at` clears the latch, and an idle context under a latched fault is
barred. -/
theorem faultLatchIsSticky : Obligations.FaultLatchIsSticky := by
  intro s t c k f h hr hk hf
  constructor
  · rcases step_at h hr hk with ⟨hc, -, -⟩ | ⟨k', new, hm, hc, -⟩ | ⟨-, hc, -⟩
    · exact ⟨k, hc.trans hk, hf⟩
    · exact ⟨k', hc, hm.keeps_fault hf⟩
    · exact ⟨_, hc, hf⟩
  · intro hidle
    have hfault : k.inst.fault ≠ none := hf ▸ nofun
    rw [← hk]
    exact step_standsStill_of_barred h hr hk (.inr ⟨hidle, hfault⟩)

/-- Settles O37: the fault marks the context stuck, and a stuck context is barred. -/
theorem backendFaultLeavesTheInstanceStuck : Obligations.BackendFaultLeavesTheInstanceStuck := by
  refine ⟨fun s c more k hag hk hp ho => ?_, fun s t c k h hr hk hung => ?_⟩
  · rw [step_of_agenda_backendFault hag]
    exact backendFault_of_busy hk hp ho
  · rw [← hk]
    exact step_standsStill_of_barred h hr hk (.inl hung)

/-- Settles O38: the step is a transition of the context named, and what it appends is that context's. -/
theorem aTransitionLeavesOtherContextsAlone : Obligations.ATransitionLeavesOtherContextsAlone := by
  intro s t c d more hag h hd
  rw [step_of_agenda_run hag] at h
  obtain ⟨k, k', new, hm, hf, -⟩ := transition_cases h
  exact hf.standsStill_elsewhere hm hd

/-- Settles O32: the step is a transition of the context named, at Accept of a word that does not decode. -/
theorem illegalWordLatchesUnknownRegister : Obligations.IllegalWordLatchesUnknownRegister := by
  intro s c more k o rest e hag hc ha hport hd
  rw [step_of_agenda_run hag]
  exact transition_of_illegal hc ha hport hd
end

section
/-!
PROOFS. The statements about reset and progress (70_reset_and_hazards.md). A step of the context that the agenda
names is one transition of it, so what a busy context does is read off the two ways in which it moves: it issues
an access, or it completes. The example of R334 is four issues one after the other.
-/

namespace Sys2Proof.Machine

/-! ### Reset and waiting -/

theorem step_of_agenda_reset {s : State} {more : List Stimulus} (h : s.agenda = .reset :: more) :
    step s = .next (takeReset { s with agenda := more }) := by
  simp only [step, runAgenda, h, react]

/-- After a reset every context holds its reset values and none is stuck (R330). -/
theorem inst_and_hung_of_mem_takeReset {s : State} {k : Context} (h : k ∈ (takeReset s).contexts) :
    k.inst = {} ∧ k.hung = false := by
  obtain ⟨q, -, rfl⟩ := List.mem_map.mp h
  exact ⟨rfl, rfl⟩

/-- An idle context with nothing on its port waits, be it faulted, stuck or neither (R330). -/
theorem transition_of_idle_of_port_nil {s : State} {k : Context} (hc : s.cur? = some k)
    (hp : k.inst.phase = .idle) (hport : k.port = []) : transition s = .next s := by
  simp [transition, hc, hp, hport]

/-! ### The two ways in which a busy context moves -/

theorem Context.work_of_idle {k : Context} (hp : k.inst.phase = .idle) : k.work = 0 := by
  simp only [Context.work, hp]

theorem Context.work_of_busy {k : Context} (hp : k.inst.phase = .busy) :
    k.work = k.inst.pending.length + 1 := by
  simp only [Context.work, hp]

/-- A busy context that is not stuck issues one bus event with work left, or sends one response with none left
(43_split_sequencer.md R177 (2), (3)). -/
theorem Moved.of_busy {p : Params} {c : Nat} {k k' : Context} {new : List Entry}
    (h : Moved p c k k' new) (hh : k.hung = false) (hp : k.inst.phase = .busy) :
    k'.work + 1 = k.work ∧
      ((k'.work ≠ 0 ∧ ∃ e : BusEvent, e.ctx = c ∧ new = [.bus e]) ∨
        (k'.work = 0 ∧ ∃ r : Response, r.ctx = c ∧ new = [.rsp r])) := by
  have hno : ¬ k.CanAccept := fun ⟨_, hidle, _⟩ => absurd (hp.symm.trans hidle) nofun
  cases h with
  | stays hstay =>
    rcases hstay with hung | ⟨hidle, -⟩
    · exact absurd (hh.symm.trans hung) nofun
    · exact absurd (hp.symm.trans hidle) nofun
  | illegal _ _ _ ha | violation _ _ _ _ ha | recoverable _ _ _ _ ha | accepts _ _ _ _ ha =>
    exact absurd ha hno
  | issues r op rest d _ _ _ ho =>
    have hwork : k.work = rest.length + 2 := by rw [Context.work_of_busy hp, ho, List.length_cons]
    have hleft : Context.work { k with inst := k.inst.issued r op rest d } = rest.length + 1 := by
      rw [Context.work_of_busy (by simpa using hp), Instance.issued_pending]
    exact ⟨by omega, .inl ⟨by omega, op.event c d, op.event_ctx c d, rfl⟩⟩
  | completes r code payload _ _ _ ho =>
    have hwork : k.work = 1 := by rw [Context.work_of_busy hp, ho, List.length_nil]
    exact ⟨hwork.symm, .inr ⟨rfl, ⟨c, code, payload⟩, rfl, rfl⟩⟩

/-! ### The history from the side of the context that an entry belongs to -/

theorem eventsOf_bus {c : Nat} {e : BusEvent} (h : e.ctx = c) : eventsOf c [.bus e] = [e] :=
  if_pos h

theorem responsesOf_rsp {c : Nat} {r : Response} (h : r.ctx = c) : responsesOf c [.rsp r] = [r] :=
  if_pos h

/-! ### Issues in a row -/

/-- A step of a context that has a write to issue writes it (43_split_sequencer.md R177 (2)). -/
theorem step_of_write_pending {s : State} {c : Nat} {more : List Stimulus} {k : Context} {r : Request}
    {a : Addr} {w : Word32} {rest : List BusOp} (hag : s.agenda = .run c :: more)
    (hk : s.contexts[c]? = some (k.accepted r (.wr a w :: rest))) (hh : k.hung = false) :
    step s = .next
      { s with
        ctx := c
        agenda := more
        contexts := s.contexts.set c (k.accepted r rest)
        history := s.history ++ [.bus ⟨c, .write, a, w⟩] } := by
  have hcur : ({ s with ctx := c, agenda := more } : State).cur? =
      some (k.accepted r (.wr a w :: rest)) := hk
  obtain ⟨ops, fin, hexec, -⟩ := exec_operates (Instr.ofRequest r {}) { s with ctx := c, agenda := more }
  rw [ofRequest_request] at hexec
  rw [step_of_agenda_run hag, transition_of_busy hcur hh rfl rfl, hexec,
    operate_issue hcur hh rfl rfl rfl, issue_eq]
  rfl

/-- A run is its first step and then the run of the rest. -/
theorem run_succ_of_step {n : Nat} {s t : State} (h : step s = .next t) :
    Host.Core.run core (n + 1) s = Host.Core.run core n t := by
  simp only [Host.Core.run, core, h]

end Sys2Proof.Machine

/-! ### The statements -/

open Sys2Proof Sys2Proof.Machine

/-- Settles O48: the invariant gives the next state, and the transition that leads to it issues or
completes (`Moved.of_busy`). -/
theorem everyTransitionBringsTheEndNearer : Obligations.EveryTransitionBringsTheEndNearer := by
  intro s c more k hs hag hk hh hp
  obtain ⟨t, ht⟩ := noStepStops s hs
  have htrans := ht
  rw [step_of_agenda_run hag] at htrans
  obtain ⟨q, k', new, hm, hf, -⟩ := transition_cases htrans
  obtain rfl : q = k := Option.some.inj (hf.here.symm.trans hk)
  obtain ⟨hwork, hnew⟩ := hm.of_busy hh hp
  have hhist : t.history = s.history ++ new := hf.history
  refine ⟨t, k', ht, hf.there, hwork, ?_⟩
  simp only [hhist, eventsOf_append, responsesOf_append]
  rcases hnew with ⟨hleft, e, he, rfl⟩ | ⟨hdone, r, hr, rfl⟩
  · exact ⟨fun hzero => absurd hzero hleft, fun _ => ⟨List.append_nil _, e, by rw [eventsOf_bus he]⟩⟩
  · exact ⟨fun _ => ⟨⟨r, by rw [responsesOf_rsp hr]⟩, List.append_nil _⟩, absurd hdone⟩

/-- Settles O33: the step is a transition of the context named, which waits. -/
theorem idleInstanceWaitsForARequest : Obligations.IdleInstanceWaitsForARequest := by
  intro s c more k hag hk hp hport
  rw [step_of_agenda_run hag]
  exact transition_of_idle_of_port_nil hk hp hport

/-- Settles O35: the step is `takeReset`, which replaces contexts in place. -/
theorem resetEventAbandonsEveryOperation : Obligations.ResetEventAbandonsEveryOperation := by
  intro s more hag
  exact ⟨_, step_of_agenda_reset hag, rfl, rfl, List.length_map _,
    fun k hk => inst_and_hung_of_mem_takeReset hk⟩

/-- Settles O49: each of the four steps issues the write that its context has pending. -/
theorem twoIcrWritesMayInterleaveTheirSlots : Obligations.TwoIcrWritesMayInterleaveTheirSlots := by
  rintro s k₀ k₁ h₀ l₀ h₁ l₁ rest more - ⟨hh₀, -, -⟩ ⟨hh₁, -, -⟩ a₀ a₁
  rw [run_succ_of_step (step_of_write_pending rfl rfl hh₀),
    run_succ_of_step (step_of_write_pending rfl rfl hh₁),
    run_succ_of_step (step_of_write_pending rfl rfl hh₁),
    run_succ_of_step (step_of_write_pending rfl rfl hh₀)]
  exact ⟨_, rfl, by simp⟩
end

section
/-!
PROOFS. The write order of wide registers (43_split_sequencer.md R172; 70_reset_and_hazards.md R333). The slots
of two registers differ, so a slot says which half of which register it is. Issuing then keeps the order: the
low-slot write of a pair is the next access exactly when its context is staged, and a context is staged right
after exactly the high-slot writes. No other transition writes on the bus or stages a context.
-/

namespace Sys2Proof.Machine

/-! ### A slot belongs to one register -/

/-- With 120 redirection entries every register of the index exists (10_state.md R26). -/
theorem Reg.wf_of_redirCount {p : Params} (h : p.redirCount = 120) (reg : Reg) : reg.wf p = true := by
  cases reg with
  | ioapicRedir n => simp [Reg.wf, h]
  | _ => rfl

/-- A register is known by its low slot. -/
theorem Reg.eq_of_low_eq {q r : Reg} (h : q.slots.low = r.slots.low) : q = r :=
  reg_eq_of_low_eq (p := { Params.atReset with redirCount := 120 }) (Reg.wf_of_redirCount rfl q)
    (Reg.wf_of_redirCount rfl r) h

/-- No slot is one register's low slot and another's high slot. -/
theorem Reg.low_ne_of_high {q r : Reg} {h : Addr} (hr : r.slots.high = some h) : q.slots.low ≠ h :=
  low_ne_high_of_wf (p := { Params.atReset with redirCount := 120 }) (Reg.wf_of_redirCount rfl q) hr

/-- The high slot of a redirection entry (10_state.md R26). -/
theorem ioapicRedir_high_iff {n : Fin 120} {i : BitVec 8} :
    (Reg.ioapicRedir n).slots.high = some (.ioapic i) ↔ i.toNat = 0x11 + 2 * n.val := by
  simp only [Reg.slots, Option.some.injEq, Addr.ioapic.injEq, ← BitVec.toNat_inj, BitVec.toNat_ofNat]
  omega

/-- A wide register is known by its high slot. -/
theorem Reg.eq_of_high_eq {q r : Reg} {h : Addr} (hq : q.slots.high = some h)
    (hr : r.slots.high = some h) : q = r := by
  cases h with
  | lapic off =>
    have icr : ∀ reg : Reg, reg.slots.high = some (.lapic off) → reg = .lapicIcr := by
      intro reg hreg
      cases reg with
      | lapicIcr => rfl
      | _ => cases hreg
    rw [icr q hq, icr r hr]
  | ioapic i =>
    have redir : ∀ reg : Reg, reg.slots.high = some (.ioapic i) →
        ∃ n : Fin 120, reg = .ioapicRedir n ∧ i.toNat = 0x11 + 2 * n.val := by
      intro reg hreg
      cases reg with
      | ioapicRedir n => exact ⟨n, rfl, ioapicRedir_high_iff.mp hreg⟩
      | _ => cases hreg
    obtain ⟨n, rfl, hn⟩ := redir q hq
    obtain ⟨m, rfl, hm⟩ := redir r hr
    exact congrArg Reg.ioapicRedir (Fin.ext (by omega))

theorem isPair_low_iff {reg : Reg} {h : Addr} : IsPair reg.slots.low h ↔ reg.slots.high = some h := by
  refine ⟨?_, fun hh => ⟨reg, rfl, hh⟩⟩
  rintro ⟨q, hlow, hh⟩
  exact Reg.eq_of_low_eq hlow ▸ hh

theorem isPair_high_iff {reg : Reg} {l h : Addr} (hh : reg.slots.high = some h) :
    IsPair l h ↔ l = reg.slots.low := by
  refine ⟨?_, fun hl => ⟨reg, hl.symm, hh⟩⟩
  rintro ⟨q, rfl, hq⟩
  rw [Reg.eq_of_high_eq hq hh]

/-- A high slot is the low slot of no pair. -/
theorem not_isPair_of_high {reg : Reg} {a h : Addr} (ha : reg.slots.high = some a) : ¬ IsPair a h := by
  rintro ⟨q, hlow, -⟩
  exact Reg.low_ne_of_high ha hlow

/-- A low slot is the high slot of no pair. -/
theorem not_isPair_low {reg : Reg} {l : Addr} : ¬ IsPair l reg.slots.low := by
  rintro ⟨q, -, hh⟩
  exact Reg.low_ne_of_high hh rfl

/-! ### The accesses of a wide write -/

/-- A wide write's next access is of the high slot with the low one to come, or of the low slot and its last
(R172). -/
theorem issue_cases_of_wide_write {p : Params} {r : Request} {h : Addr} {op : BusOp} {rest : List BusOp}
    (hs : (op :: rest).map BusOp.target <:+ targets p r) (hd : r.dir = .write)
    (hh : r.reg.slots.high = some h) :
    (op.target = (.write, h) ∧ rest.map BusOp.target = [(.write, r.reg.slots.low)]) ∨
      (op.target = (.write, r.reg.slots.low) ∧ rest.map BusOp.target = []) := by
  have ht : targets p r = [(.write, h), (.write, r.reg.slots.low)] := by simp only [targets, hd, hh]
  simpa [ht, List.suffix_cons_iff] using hs

/-- A list with one write to `a`, in terms of targets. -/
theorem map_target_eq_write_iff {l : List BusOp} {a : Addr} :
    l.map BusOp.target = [(.write, a)] ↔ ∃ w, l = [.wr a w] := by
  constructor
  · intro h
    obtain ⟨op, rfl, hop⟩ := List.map_eq_singleton_iff.mp h
    cases op with
    | rd b => cases hop
    | wr b w => cases hop; exact ⟨w, rfl⟩
  · rintro ⟨w, rfl⟩
    rfl

/-! ### Staged contexts -/

/-- A busy context is staged when its operation is a wide write with the low-slot write alone left (R173). -/
theorem Context.staged_iff_of_busy {k : Context} {r : Request} {h : Addr} (hp : k.inst.phase = .busy)
    (hr : k.inst.req = some r) :
    k.Staged h ↔ r.dir = .write ∧ r.reg.slots.high = some h ∧
      k.inst.pending.map BusOp.target = [(.write, r.reg.slots.low)] := by
  rw [map_target_eq_write_iff]
  constructor
  · rintro ⟨reg, w, -, hreq, hh, ho⟩
    obtain rfl : r = ⟨reg, .write⟩ := Option.some.inj (hr.symm.trans hreq)
    exact ⟨rfl, hh, w, ho⟩
  · obtain ⟨reg, dir⟩ := r
    rintro ⟨rfl, hh, w, ho⟩
    exact ⟨reg, w, hp, hr, hh, ho⟩

/-- Right after Accept no context is staged: the high-slot write is still to come. -/
theorem Context.not_staged_accepted {p : Params} {k : Context} {r : Request} {l : List BusOp}
    (hl : l.map BusOp.target = targets p r) (h : Addr) : ¬ (k.accepted r l).Staged h := by
  rw [Context.staged_iff_of_busy (r := r) rfl rfl]
  rintro ⟨hd, hh, ho⟩
  have hlow : l.map BusOp.target = [(.write, r.reg.slots.low)] := ho
  simp [hl, targets, hd, hh] at hlow

theorem Context.not_staged_of_pending_nil {k : Context} (ho : k.inst.pending = []) (h : Addr) :
    ¬ k.Staged h := by
  rintro ⟨reg, w, -, -, -, hw⟩
  exact absurd (ho.symm.trans hw) nofun

section
variable {p : Params} {k : Context} {r : Request} {op : BusOp} {rest : List BusOp}

/-- The low-slot write of a pair is what comes next exactly when the context is staged for the pair. -/
theorem Context.staged_iff_issues_low (hp : k.inst.phase = .busy) (hr : k.inst.req = some r)
    (ho : k.inst.pending = op :: rest) (hs : k.inst.pending.map BusOp.target <:+ targets p r)
    {l h : Addr} (hpair : IsPair l h) : k.Staged h ↔ op.target = (.write, l) := by
  rw [Context.staged_iff_of_busy hp hr, ho]
  rw [ho] at hs
  constructor
  · rintro ⟨-, hh, hlow⟩
    rw [(isPair_high_iff hh).mp hpair]
    exact (List.cons.inj hlow).1
  · intro hop
    have hmem : (Dir.write, l) ∈ targets p r := hop ▸ hs.subset List.mem_cons_self
    obtain ⟨hd, rfl | hl⟩ := mem_targets.mp hmem
    · have hh := isPair_low_iff.mp hpair
      rcases issue_cases_of_wide_write hs hd.symm hh with ⟨hhigh, -⟩ | ⟨hlow, hrest⟩
      · exact absurd (congrArg Prod.snd (hop.symm.trans hhigh)) (low_ne_high hh)
      · exact ⟨hd.symm, hh, by rw [List.map_cons, hlow, hrest]⟩
    · exact absurd hpair (not_isPair_of_high hl)

/-- After an issue a context is staged for a pair exactly when it has just written the pair's high slot. -/
theorem Context.staged_issued_iff (hp : k.inst.phase = .busy) (hr : k.inst.req = some r)
    (ho : k.inst.pending = op :: rest) (hs : k.inst.pending.map BusOp.target <:+ targets p r)
    (d : Word32) {h : Addr} :
    Context.Staged { k with inst := k.inst.issued r op rest d } h ↔
      op.target = (.write, h) ∧ ∃ l, IsPair l h := by
  rw [Context.staged_iff_of_busy (r := r) (by simpa using hp) (by simpa using hr), Instance.issued_pending]
  rw [ho] at hs
  constructor
  · rintro ⟨hd, hh, hrest⟩
    rcases issue_cases_of_wide_write hs hd hh with ⟨hhigh, -⟩ | ⟨-, hnil⟩
    · exact ⟨hhigh, _, isPair_low_iff.mpr hh⟩
    · exact absurd (hnil.symm.trans hrest) nofun
  · rintro ⟨hop, l, hpair⟩
    have hmem : (Dir.write, h) ∈ targets p r := hop ▸ hs.subset List.mem_cons_self
    obtain ⟨hd, rfl | hh⟩ := mem_targets.mp hmem
    · exact absurd hpair not_isPair_low
    · rcases issue_cases_of_wide_write hs hd.symm hh with ⟨-, hrest⟩ | ⟨hlow, -⟩
      · exact ⟨hd.symm, hh, hrest⟩
      · exact absurd (congrArg Prod.snd (hlow.symm.trans hop)) (low_ne_high hh)
end

/-! ### The write order of one context -/

/-- One more event keeps the order when it may follow the last one. -/
theorem pairedFrom_concat {prev : Option BusEvent} {l : List BusEvent} {e : BusEvent} :
    PairedFrom prev (l ++ [e]) ↔ PairedFrom prev l ∧ PairedStep (l.getLast?.or prev) e := by
  induction l generalizing prev with
  | nil => simp [PairedFrom]
  | cons x xs ih =>
    have hlast : (x :: xs).getLast?.or prev = xs.getLast?.or (some x) := by
      rw [List.getLast?_cons]
      cases xs.getLast? <;> rfl
    simp only [List.cons_append, PairedFrom, ih, hlast, and_assoc]

/-- The last event is a write of the high slot `h` of a wide register. -/
def EndsInHighWrite (evs : List BusEvent) (h : Addr) : Prop :=
  ∃ e l, evs.getLast? = some e ∧ e.dir = .write ∧ e.addr = h ∧ IsPair l h

/-- `State.WriteOrder` for one context and its events. -/
def Context.WriteOrdered (k : Context) (evs : List BusEvent) : Prop :=
  PairedFrom none evs ∧ ∀ h, k.Staged h ↔ EndsInHighWrite evs h

theorem State.writeOrder_iff {s : State} :
    s.WriteOrder ↔
      ∀ (c : Nat) (k : Context), s.contexts[c]? = some k → k.WriteOrdered (eventsOf c s.history) :=
  Iff.rfl

theorem endsInHighWrite_concat {evs : List BusEvent} {e : BusEvent} {h : Addr} :
    EndsInHighWrite (evs ++ [e]) h ↔ (e.dir, e.addr) = (.write, h) ∧ ∃ l, IsPair l h := by
  simp [EndsInHighWrite, and_assoc]

/-- Where the staged pairs are those that the last event has begun, an event may follow that writes the low
slot of a pair exactly when the pair is staged. -/
theorem Context.WriteOrdered.pairedStep {k : Context} {evs : List BusEvent} {e : BusEvent}
    (hk : k.WriteOrdered evs)
    (he : ∀ l h, IsPair l h → (k.Staged h ↔ (e.dir, e.addr) = (.write, l))) :
    PairedStep evs.getLast? e := by
  obtain ⟨-, hstaged⟩ := hk
  constructor
  · intro h hd hpair
    obtain ⟨q, -, hq, hqd, hqa, -⟩ := (hstaged h).mp ((he _ h hpair).mpr (by rw [hd]))
    exact ⟨q, hq, hqd, hqa⟩
  · intro q l hq hqd hpair
    have hlow := (he l _ hpair).mp ((hstaged _).mpr ⟨q, l, hq, hqd, rfl, hpair⟩)
    exact Prod.ext_iff.mp hlow

/-- A context that no longer or not yet has a low-slot write to issue leaves the order as it was. -/
theorem Context.WriteOrdered.of_not_staged {k k' : Context} {evs : List BusEvent}
    (hk : k.WriteOrdered evs) (h : ∀ a, ¬ k.Staged a) (h' : ∀ a, ¬ k'.Staged a) : k'.WriteOrdered evs :=
  ⟨hk.1, fun a => (iff_of_false (h' a) (h a)).trans (hk.2 a)⟩

/-- Every transition of a consistent context keeps the order of its events (R172, R173). -/
theorem Moved.keeps_writeOrdered {p : Params} {c : Nat} {k k' : Context} {new : List Entry}
    {evs : List BusEvent} (h : Moved p c k k' new) (hk : k.Consistent p) (hw : k.WriteOrdered evs) :
    k'.WriteOrdered (evs ++ eventsOf c new) := by
  cases h with
  | stays | illegal | violation | recoverable => exact (List.append_nil evs).symm ▸ hw
  | accepts o rest r l ha hp hd hc hl =>
    obtain ⟨-, hidle, -⟩ := ha
    exact (List.append_nil evs).symm ▸
      hw.of_not_staged (Context.not_staged_of_idle hidle) (Context.not_staged_accepted hl)
  | completes r code payload hh hp hr ho =>
    exact (List.append_nil evs).symm ▸
      hw.of_not_staged (Context.not_staged_of_pending_nil ho) (Context.not_staged_of_idle rfl)
  | issues r op rest d hh hp hr ho =>
    obtain ⟨-, q, hq, -, hs, -⟩ := (Instance.consistent_busy hp).mp hk.1
    obtain rfl : r = q := Option.some.inj (hr.symm.trans hq)
    have htarget := op.event_target c d
    rw [eventsOf_bus (op.event_ctx c d)]
    refine ⟨pairedFrom_concat.mpr ⟨hw.1, ?_⟩, fun a => ?_⟩
    · rw [Option.or_none]
      refine hw.pairedStep fun l a hpair => ?_
      rw [htarget]
      exact Context.staged_iff_issues_low hp hr ho hs hpair
    · rw [endsInHighWrite_concat, htarget]
      exact Context.staged_issued_iff hp hr ho hs d

/-- A reset empties the history and every context. -/
theorem takeReset_writeOrder (s : State) : (takeReset s).WriteOrder := by
  rw [State.writeOrder_iff]
  intro c k hk
  obtain ⟨hinst, -⟩ := inst_and_hung_of_mem_takeReset (List.mem_of_getElem? hk)
  have hidle : k.inst.phase = .idle := by rw [hinst]
  refine ⟨trivial, fun h => iff_of_false (Context.not_staged_of_idle hidle h) ?_⟩
  rintro ⟨e, l, he, -⟩
  cases he

/-- A context that stands after a step stood before it, since no step changes the number of contexts. -/
theorem exists_context_before {s t : State} {c : Nat} {k' : Context} (h : step s = .next t)
    (hk : t.contexts[c]? = some k') : ∃ k, s.contexts[c]? = some k := by
  obtain ⟨-, hlen, -⟩ := parametersNeverChange s t h
  have hlt : c < t.contexts.length := (List.getElem?_eq_some_iff.mp hk).1
  exact ⟨_, List.getElem?_eq_getElem (hlen ▸ hlt)⟩

end Sys2Proof.Machine

/-! ### The statement -/

open Sys2Proof Sys2Proof.Machine

/-- Settles O44: a step resets all contexts, or passes a context by, moves it by one transition
(`Moved.keeps_writeOrdered`), or leaves it stuck with what it has staged. -/
theorem everyStepKeepsTheWriteOrder : Obligations.EveryStepKeepsTheWriteOrder := by
  intro s t hs hw h
  by_cases hreset : s.agenda.head? = some .reset
  · obtain ⟨more, hag⟩ := List.head?_eq_some_iff.mp hreset
    rw [step_of_agenda_reset hag] at h
    cases h
    exact takeReset_writeOrder _
  · rw [State.writeOrder_iff] at hw ⊢
    intro c k' hk'
    obtain ⟨k, hk⟩ := exists_context_before h hk'
    have hord := hw c k hk
    rcases step_at h hreset hk with ⟨hc, hevents, -⟩ | ⟨q, new, hm, hc, hhist⟩ | ⟨-, hc, hhist⟩
    · obtain rfl : k' = k := Option.some.inj (hk'.symm.trans (hc.trans hk))
      rw [hevents]
      exact hord
    · obtain rfl : k' = q := Option.some.inj (hk'.symm.trans hc)
      rw [hhist, eventsOf_append]
      exact hm.keeps_writeOrdered (hs.consistent hk) hord
    · obtain rfl := Option.some.inj (hk'.symm.trans hc)
      rw [hhist]
      exact hord
end

section
/-!
PROOFS. The reserved bits of written words (41_bitfield_codec.md R101; 70_reset_and_hazards.md R338). Every
operation writes words of its own register's layout, whose reserved bits encode fixes, and a slot belongs to no
other register. Words enter `pending` at Accept alone, and Issue takes them from there to the bus.
-/

namespace Sys2Proof.Machine

/-! ### Words with their reserved bits fixed -/

/-- Every write among the accesses `l` has its reserved bits fixed. -/
def WritesFixed (p : Params) (l : List BusOp) : Prop :=
  ∀ a w, BusOp.wr a w ∈ l → ReservedBitsFixed p a w

/-- Every write event among the entries `l` has its reserved bits fixed. -/
def EventsFixed (p : Params) (l : List Entry) : Prop :=
  ∀ e, Entry.bus e ∈ l → e.dir = .write → ReservedBitsFixed p e.addr e.data

theorem State.reservedBitsFixed_iff {s : State} :
    s.ReservedBitsFixed ↔
      (∀ k ∈ s.contexts, WritesFixed s.params k.inst.pending) ∧ EventsFixed s.params s.history :=
  Iff.rfl

/-- The low slot of a register belongs to no other register. -/
theorem reservedBitsFixed_low {p : Params} {reg : Reg} {w : Word32}
    (h : w &&& ~~~lowOf (fieldMask p reg) = lowOf (fixedPattern reg)) :
    ReservedBitsFixed p reg.slots.low w := by
  refine fun q => ⟨fun hlow => ?_, fun hhigh => ?_⟩
  · rw [Reg.eq_of_low_eq hlow]
    exact h
  · exact absurd rfl (Reg.low_ne_of_high hhigh)

/-- The high slot of a register belongs to no other register. -/
theorem reservedBitsFixed_high {p : Params} {reg : Reg} {a : Addr} {w : Word32}
    (ha : reg.slots.high = some a)
    (h : w &&& ~~~highOf (fieldMask p reg) = highOf (fixedPattern reg)) : ReservedBitsFixed p a w := by
  refine fun q => ⟨fun hlow => ?_, fun hhigh => ?_⟩
  · exact absurd hlow (Reg.low_ne_of_high ha)
  · rw [Reg.eq_of_high_eq hhigh ha]
    exact h

/-! ### The accesses of an operation -/

theorem writesFixed_readOps (p : Params) (order : SplitReadOrder) (sl : Slots) :
    WritesFixed p (readOps order sl) := by
  intro a w hw
  unfold readOps at hw
  split at hw
  all_goals simp at hw

theorem writesFixed_writeOps32 {p : Params} {reg : Reg} {raw : Word32}
    (h : raw &&& ~~~lowOf (fieldMask p reg) = lowOf (fixedPattern reg)) :
    WritesFixed p (writeOps32 reg.slots raw) := by
  intro a w hw
  cases List.mem_singleton.mp hw
  exact reservedBitsFixed_low h

/-- A slice of a masked word is the masked slice. -/
theorem extractLsb'_and_not {n lo m : Nat} (x y : BitVec n) (h : lo + m ≤ n) :
    (x &&& ~~~y).extractLsb' lo m = x.extractLsb' lo m &&& ~~~y.extractLsb' lo m := by
  ext i hi
  simp [show lo + i < n by omega]

/-- The mask of a wide value is that of its slots. -/
theorem writesFixed_writeOps64 {p : Params} {reg : Reg} {raw : Word64}
    (h : raw &&& ~~~fieldMask p reg = fixedPattern reg) :
    WritesFixed p (writeOps64 reg.slots raw) := by
  have hlow : lowOf raw &&& ~~~lowOf (fieldMask p reg) = lowOf (fixedPattern reg) := by
    rw [← h]
    exact (extractLsb'_and_not raw _ (by decide)).symm
  have hhigh : highOf raw &&& ~~~highOf (fieldMask p reg) = highOf (fixedPattern reg) := by
    rw [← h]
    exact (extractLsb'_and_not raw _ (by decide)).symm
  intro a w hw
  unfold writeOps64 at hw
  split at hw
  · next b hb =>
    rcases List.mem_pair.mp hw with he | he
    · cases he
      exact reservedBitsFixed_high hb hhigh
    · cases he
      exact reservedBitsFixed_low hlow
  · cases List.mem_singleton.mp hw
    exact reservedBitsFixed_low hlow

/-! ### Every operation -/

/-- `res` is a transition of an operation in `s`, and the accesses that its Accept lists, if any, have their
reserved bits fixed. -/
def OperatesFixed (s : State) (res : Result) : Prop :=
  ∃ (r : Request) (ops : Except OpError (List BusOp)) (fin : Instance → Except Fault OpResult),
    res = operate r ops fin s ∧ ∀ l, ops = .ok l → WritesFixed s.params l

section
variable {s : State} {reg : Reg}

theorem operatesFixed_readOp32 {dec : Word32 → Except OpError Value} :
    OperatesFixed s (readOp32 reg dec s) :=
  ⟨_, _, _, rfl, fun _ hl => Except.ok.inj hl ▸ writesFixed_readOps _ _ _⟩

theorem operatesFixed_readOp64 {dec : Word64 → Value} : OperatesFixed s (readOp64 reg dec s) :=
  ⟨_, _, _, rfl, fun _ hl => Except.ok.inj hl ▸ writesFixed_readOps _ _ _⟩

theorem operatesFixed_writeOp32 {raw : Except OpError Word32}
    (h : ∀ w, raw = .ok w → w &&& ~~~lowOf (fieldMask s.params reg) = lowOf (fixedPattern reg)) :
    OperatesFixed s (writeOp32 reg raw s) := by
  refine ⟨_, _, _, rfl, fun l hl => ?_⟩
  cases raw with
  | error e => cases hl
  | ok w => exact Except.ok.inj hl ▸ writesFixed_writeOps32 (h w rfl)

theorem operatesFixed_writeOp32_ok {w : Word32}
    (h : w &&& ~~~lowOf (fieldMask s.params reg) = lowOf (fixedPattern reg)) :
    OperatesFixed s (writeOp32 reg (.ok w) s) :=
  operatesFixed_writeOp32 fun _ hw => Except.ok.inj hw ▸ h

theorem operatesFixed_writeOp64 {raw : Word64}
    (h : raw &&& ~~~fieldMask s.params reg = fixedPattern reg) :
    OperatesFixed s (writeOp64 reg raw s) :=
  ⟨_, _, _, rfl, fun _ hl => Except.ok.inj hl ▸ writesFixed_writeOps64 h⟩
end

/-- The mask of an identifier, as a 32-bit word. -/
theorem lowOf_idMask (w : IdWidth) : lowOf (idMask w) = (idMask w).setWidth 32 := by
  cases w with
  | four => rfl
  | eight => rfl

/-- Whatever its width, an identifier is written inside its mask (10_state.md R29). -/
theorem putId_and_not_lowOf_mask (w : IdWidth) (id : BitVec 8) :
    putId w id &&& ~~~lowOf (idMask w) = 0 := by
  rw [lowOf_idMask]
  exact putId_and_not_mask w id

/-- A raw word has no reserved bit. -/
theorem encodeWord_and_not_mask (w : Word32) : encodeWord w &&& ~~~0xFFFFFFFF = 0 :=
  BitVec.and_zero

/-- Every operation writes words of its own register's layout (41_bitfield_codec.md R101), one that its
capability forbids included. -/
theorem exec_operatesFixed (i : Instr) (s : State) : OperatesFixed s (exec i s) := by
  cases i with
  | rdLapicId | rdLapicVer | rdLapicTpr | rdLapicApr | rdLapicPpr | rdLapicEoi | rdLapicLdr | rdLapicDfr
  | rdLapicSvr | rdLapicEsr | rdLapicLvtCmci | rdLapicLvtTimer | rdLapicLvtThermal | rdLapicLvtPerf
  | rdLapicLvtLint0 | rdLapicLvtLint1 | rdLapicLvtError | rdLapicTmrInit | rdLapicTmrCur | rdLapicDcr
  | rdIoapicId | rdIoapicVer | rdIoapicArb => exact operatesFixed_readOp32
  | rdLapicIcr | rdIoapicRedir n => exact operatesFixed_readOp64
  | wrLapicId v => exact operatesFixed_writeOp32_ok (putId_and_not_lowOf_mask s.params.lapicIdWidth v.id)
  | wrIoapicId v => exact operatesFixed_writeOp32_ok (putId_and_not_lowOf_mask s.params.ioapicIdWidth v.id)
  | wrIoapicArb v =>
    exact operatesFixed_writeOp32_ok (putId_and_not_lowOf_mask s.params.ioapicIdWidth v.arbId)
  | wrLapicVer v => exact operatesFixed_writeOp32_ok (codecLaws_lapicVersion.encode_and_not_mask v)
  | wrIoapicVer v => exact operatesFixed_writeOp32_ok (codecLaws_ioapicVersion.encode_and_not_mask v)
  | wrLapicTpr v | wrLapicApr v | wrLapicPpr v =>
    exact operatesFixed_writeOp32_ok (codecLaws_priority.encode_and_not_mask v)
  | wrLapicEoi v | wrLapicTmrInit v | wrLapicTmrCur v =>
    exact operatesFixed_writeOp32_ok (encodeWord_and_not_mask v)
  | wrLapicLdr v => exact operatesFixed_writeOp32_ok (codecLaws_logicalDest.encode_and_not_mask v)
  | wrLapicDfr v => exact operatesFixed_writeOp32_ok (encodeDestFormat_and_not_mask v)
  | wrLapicSvr v => exact operatesFixed_writeOp32_ok (codecLaws_spuriousVector.encode_and_not_mask v)
  | wrLapicEsr v => exact operatesFixed_writeOp32_ok (codecLaws_errorStatus.encode_and_not_mask v)
  | wrLapicLvtTimer v => exact operatesFixed_writeOp32_ok (codecLaws_lvtTimer.encode_and_not_mask v)
  | wrLapicLvtCmci v | wrLapicLvtThermal v | wrLapicLvtPerf v | wrLapicLvtLint0 v | wrLapicLvtLint1 v
  | wrLapicLvtError v => exact operatesFixed_writeOp32_ok (codecLaws_lvtEntry.encode_and_not_mask v)
  | wrLapicDcr v => exact operatesFixed_writeOp32 fun _ => and_not_mask_of_encodeDivisor
  | wrLapicIcr v => exact operatesFixed_writeOp64 (codecLaws_icr.encode_and_not_mask v)
  | wrIoapicRedir n v => exact operatesFixed_writeOp64 (codecLaws_redirEntry.encode_and_not_mask v)

/-! ### Transitions -/

/-- After Accept of a request the words about to be written are those of its operation. -/
theorem pending_fixed_of_accept {s t : State} {k k' : Context} {o : Offer} {rest : List Offer}
    {r : Request} (h : transition s = .next t) (hc : s.cur? = some k) (ha : k.CanAccept)
    (hport : k.port = o :: rest) (hd : decodeReq s.params o.word = .ok r) (ht : t.cur? = some k')
    (hk : WritesFixed s.params k.inst.pending) : WritesFixed s.params k'.inst.pending := by
  have hc' := State.cur?_setCur hc { k with port := rest }
  obtain ⟨q, ops, fin, hexec, hops⟩ :=
    exec_operatesFixed (Instr.ofRequest r o.value) (s.setCur { k with port := rest })
  rw [transition_of_canAccept hc ha hport (decode_of_decodeReq hd), hexec, operate_idle hc' ha] at h
  obtain rfl := Host.Outcome.next.inj h
  rcases accept_cases q ops { k with port := rest } (s.setCur { k with port := rest }) with
    ⟨l, hl, -, hacc⟩ | ⟨e, -, -, hacc⟩ | ⟨f, -, hacc⟩
  all_goals rw [hacc] at ht
  · obtain rfl := Option.some.inj ((State.cur?_setCur hc' _).symm.trans ht)
    exact hops l hl
  · obtain rfl := Option.some.inj (hc'.symm.trans ht)
    exact hk
  · obtain rfl := Option.some.inj ((State.cur?_setCur hc' _).symm.trans ht)
    exact hk

/-- A write event is the write that stood at the head of `pending` (43_split_sequencer.md R177 (2)). -/
theorem Moved.events_fixed {p : Params} {c : Nat} {k k' : Context} {new : List Entry}
    (h : Moved p c k k' new) (hk : WritesFixed p k.inst.pending) : EventsFixed p new := by
  intro e he hwrite
  cases h with
  | stays | accepts => cases he
  | illegal | violation | recoverable | completes => exact absurd (List.mem_singleton.mp he) nofun
  | issues r op rest d hh hp hr ho =>
    obtain rfl : e = op.event c d := Entry.bus.inj (List.mem_singleton.mp he)
    cases op with
    | rd a => cases hwrite
    | wr a w => exact hk a w (ho ▸ List.mem_cons_self)

/-- The words about to be written after a transition that is no Accept were so before it. -/
theorem Moved.pending_fixed {s t : State} {k k' : Context} {new : List Entry}
    (hm : Moved s.params s.ctx k k' new) (hf : Effect s.ctx k k' new s t) (hctx : t.ctx = s.ctx)
    (h : transition s = .next t) (hk : WritesFixed s.params k.inst.pending) :
    WritesFixed s.params k'.inst.pending := by
  cases hm with
  | stays | illegal | violation | recoverable | completes => exact hk
  | accepts o rest r l ha hp hd hc hl =>
    have hcur : t.cur? = some _ := hctx ▸ hf.there
    exact pending_fixed_of_accept h hf.here ha hp hd hcur hk
  | issues r op rest d hh hp hr ho =>
    intro a w hw
    rw [Instance.issued_pending] at hw
    exact hk a w (ho ▸ List.mem_cons_of_mem op hw)

/-- Entries whose writes are fixed appended, and one context replaced whose writes are fixed. -/
theorem State.ReservedBitsFixed.of_effect {s t : State} {c : Nat} {k k' : Context} {new : List Entry}
    (hs : s.ReservedBitsFixed) (hf : Effect c k k' new s t)
    (hk : WritesFixed s.params k'.inst.pending) (hnew : EventsFixed s.params new) :
    t.ReservedBitsFixed := by
  rw [State.reservedBitsFixed_iff] at hs ⊢
  obtain ⟨hcontexts, hhistory⟩ := hs
  rw [hf.contexts, hf.history, hf.params]
  refine ⟨fun q hq => ?_, fun e he => ?_⟩
  · rcases List.mem_or_eq_of_mem_set hq with hold | rfl
    · exact hcontexts q hold
    · exact hk
  · rcases List.mem_append.mp he with hold | hlast
    · exact hhistory e hold
    · exact hnew e hlast

/-- Every transition keeps the reserved bits fixed. -/
theorem State.ReservedBitsFixed.transition {s t : State} (hs : s.ReservedBitsFixed)
    (h : Machine.transition s = .next t) : t.ReservedBitsFixed := by
  obtain ⟨k, k', new, hm, hf, hctx⟩ := transition_cases h
  have hk : WritesFixed s.params k.inst.pending := hs.1 k (List.mem_of_getElem? hf.here)
  exact hs.of_effect hf (hm.pending_fixed hf hctx h hk) (hm.events_fixed hk)

/-- A fault of RawAccess leaves every `pending` as it is (60_exceptions.md R309). -/
theorem State.ReservedBitsFixed.backendFault {s t : State} {c : Nat} (hs : s.ReservedBitsFixed)
    (h : Machine.backendFault c s = .next t) : t.ReservedBitsFixed := by
  obtain ⟨k, hk, rfl | ⟨-, -, rfl⟩⟩ := backendFault_cases h
  · exact hs
  · have hpending : WritesFixed s.params k.inst.pending := hs.1 k (List.mem_of_getElem? hk)
    exact hs.of_effect (k' := { k with hung := true }) (new := [])
      ⟨hk, rfl, (List.append_nil _).symm, rfl, rfl⟩ hpending nofun

/-- A reset leaves nothing written and nothing to write. -/
theorem takeReset_reservedBitsFixed (s : State) : (takeReset s).ReservedBitsFixed := by
  refine ⟨fun k hk a w hw => ?_, nofun⟩
  obtain ⟨hinst, -⟩ := inst_and_hung_of_mem_takeReset hk
  rw [hinst] at hw
  cases hw

end Sys2Proof.Machine

/-! ### The statement -/

open Sys2Proof Sys2Proof.Machine

/-- Settles O47: by the stimulus; none of the three ways to react writes a word with other reserved bits. -/
theorem everyWrittenWordHasItsReservedBitsFixed : Obligations.EveryWrittenWordHasItsReservedBitsFixed := by
  intro s t hs h
  cases hag : s.agenda with
  | nil => exact hs.transition (step_of_agenda_nil hag ▸ h)
  | cons e more =>
    cases e with
    | run c =>
      have hs' : ({ s with ctx := c, agenda := more } : State).ReservedBitsFixed := hs
      exact hs'.transition (step_of_agenda_run hag ▸ h)
    | backendFault c =>
      have hs' : ({ s with agenda := more } : State).ReservedBitsFixed := hs
      exact hs'.backendFault (step_of_agenda_backendFault hag ▸ h)
    | reset =>
      rw [step_of_agenda_reset hag] at h
      cases h
      exact takeReset_reservedBitsFixed _
end
